-- ==== Sys2Proof/Word.lean ====
section
/-! DEFINITION. The word types of spec/00_scope.md R10 and R11 and the 41-bit transaction word of
spec/30_encoding.md R91. -/

namespace Sys2Proof

/-- A byte: 8 bits (R11). -/
abbrev Byte := BitVec 8

/-- A word of the bus: 32 bits (R10, R68). -/
abbrev Word32 := BitVec 32

/-- A word of the hash datapath: 64 bits (R10, R120). -/
abbrev Word64 := BitVec 64

/-- The transaction word `T = W, ADDR, DATA` of R91: 1 + 8 + 32 bits. -/
abbrev TWord := BitVec 41

end Sys2Proof
end

