-- ==== Sys2Proof/Syntax.lean ====
section
/-! DEFINITION. The instructions: one constructor per row of spec/opcode_table.json, that is one per
host operation of spec/41_host_operations.md, and the transaction a host presents at the port
(spec/30_encoding.md R90, R91). -/

namespace Sys2Proof

/-- A transaction at the port: the tuple `(we, addr, wdata)` of R90 and R91. -/
structure BusReq where
  /-- 1 = write (format `BUSW`), 0 = read (format `BUSR`). -/
  we : Bool
  /-- The byte offset of the register. -/
  addr : BitVec 8
  /-- The write data; ignored for reads. -/
  wdata : Word32
  deriving DecidableEq, Repr

/-- The host operations (R153 to R165). The two writes that carry an operand hold the whole 32-bit
`DATA`, because the operation itself begins with a check of its upper bits (R156, R158; log
entry 10). -/
inductive Instr where
  /-- `INIT` (R153): begin a new expansion. -/
  | init
  /-- `START` (R154): close the seed and run the expansion. -/
  | start
  /-- `REWIND` (R155): read the stream again from its start. -/
  | rewind
  /-- `WR BLOCKS, n` (R156): set the block count; `n = DATA[25:0]`. -/
  | wrBlocks (data : Word32)
  /-- `RD BLOCKS` (R157). -/
  | rdBlocks
  /-- `WR SEED_DATA, b` (R158): append a byte to the seed; `b = DATA[7:0]`. -/
  | wrSeedData (data : Word32)
  /-- `RD OUT_DATA` (R159): the next byte of the Expanded Stream. -/
  | rdOutData
  /-- `RD STATUS` (R160). -/
  | rdStatus
  /-- `RD SEEDLEN_LO` (R161). -/
  | rdSeedlenLo
  /-- `RD SEEDLEN_HI` (R162). -/
  | rdSeedlenHi
  /-- `RD NBLK` (R163). -/
  | rdNblk
  /-- `RD OUTPOS` (R164). -/
  | rdOutpos
  /-- `RD PARAM` (R165). -/
  | rdParam
  deriving DecidableEq, Repr

end Sys2Proof
end

