-- ==== Sys2Proof/WellFormed.lean ====
section
/-! DEFINITION. Which terms of `Instr` are instructions: the reserved bits of a write's `DATA` are 0
(spec/30_encoding.md R96, R97, R103). -/

namespace Sys2Proof

/-- `DATA[31:26] = 0` (R96, R103). -/
def blocksDataLegal (data : Word32) : Bool := data.extractLsb' 26 6 == 0

/-- `DATA[31:8] = 0` (R97, R103). -/
def seedDataLegal (data : Word32) : Bool := data.extractLsb' 8 24 == 0

/-- The instruction has an encoding: every operation without operands, `WR BLOCKS` with
`DATA[31:26] = 0`, `WR SEED_DATA` with `DATA[31:8] = 0`. -/
def Instr.wellFormed : Instr → Bool
  | .init => true
  | .start => true
  | .rewind => true
  | .wrBlocks data => blocksDataLegal data
  | .rdBlocks => true
  | .wrSeedData data => seedDataLegal data
  | .rdOutData => true
  | .rdStatus => true
  | .rdSeedlenLo => true
  | .rdSeedlenHi => true
  | .rdNblk => true
  | .rdOutpos => true
  | .rdParam => true

end Sys2Proof
end

