-- ==== Sys2Proof/Decode.lean ====
section
/-! DEFINITION. Decoding and encoding of transaction words (spec/30_encoding.md R91 to R104). The
decoder is total: a word is an instruction, or it is rejected by the name of its class (R101). -/

namespace Sys2Proof

/-- Why a transaction word is no instruction: classes 2, 3 and 4 of R101. -/
inductive Reject where
  /-- Class 2: misaligned or unmapped `ADDR`, or a direction R93 marks illegal. -/
  | illegalAccess
  /-- Class 3: a write to `CTRL` with a code other than 1, 2 and 3. -/
  | reservedCommand
  /-- Class 4: a write to `BLOCKS` or `SEED_DATA` with a reserved bit set. -/
  | reservedValue
  deriving DecidableEq, Repr

/-- Field `W` of a transaction word: bit 40 (R91). -/
def TWord.w (t : TWord) : Bool := t.getLsbD 40

/-- Field `ADDR` of a transaction word: bits 39:32 (R91). -/
def TWord.addr (t : TWord) : BitVec 8 := t.extractLsb' 32 8

/-- Field `DATA` of a transaction word: bits 31:0 (R91). -/
def TWord.data (t : TWord) : Word32 := t.extractLsb' 0 32

/-- The transaction word of the tuple `(we, addr, wdata)` (R91). -/
def BusReq.word (r : BusReq) : TWord := BitVec.ofBool r.we ++ r.addr ++ r.wdata

/-- The tuple `(we, addr, wdata)` of a transaction word (R91). -/
def TWord.toReq (t : TWord) : BusReq :=
  { we := TWord.w t, addr := TWord.addr t, wdata := TWord.data t }

/-- The command a write to `CTRL` gives (R94). -/
def decodeCommand (data : Word32) : Except Reject Instr :=
  if data = 1 then .ok .init
  else if data = 2 then .ok .start
  else if data = 3 then .ok .rewind
  else .error .reservedCommand

/-- A write, by its offset (column `BUSW` of R93). -/
def decodeWrite (addr : BitVec 8) (data : Word32) : Except Reject Instr :=
  if addr = 0x00 then decodeCommand data
  else if addr = 0x08 then
    if blocksDataLegal data then .ok (.wrBlocks data) else .error .reservedValue
  else if addr = 0x0C then
    if seedDataLegal data then .ok (.wrSeedData data) else .error .reservedValue
  else .error .illegalAccess

/-- A read, by its offset (column `BUSR` of R93). `DATA` is not looked at (R91). -/
def decodeRead (addr : BitVec 8) : Except Reject Instr :=
  if addr = 0x04 then .ok .rdStatus
  else if addr = 0x08 then .ok .rdBlocks
  else if addr = 0x10 then .ok .rdOutData
  else if addr = 0x14 then .ok .rdSeedlenLo
  else if addr = 0x18 then .ok .rdSeedlenHi
  else if addr = 0x1C then .ok .rdNblk
  else if addr = 0x20 then .ok .rdOutpos
  else if addr = 0x24 then .ok .rdParam
  else .error .illegalAccess

/-- The decoder (R104): alignment first (R67), then the direction and the offset. It depends on the
word alone (R102). -/
def decode (t : TWord) : Except Reject Instr :=
  if (TWord.addr t).extractLsb' 0 2 ≠ 0 then .error .illegalAccess
  else if TWord.w t then decodeWrite (TWord.addr t) (TWord.data t)
  else decodeRead (TWord.addr t)

/-- The transaction that is an instruction (R93, R94, R103). The data of a read is written as 0, the
canonical form of R91. -/
def encodeReq : Instr → BusReq
  | .init => { we := true, addr := 0x00, wdata := 1 }
  | .start => { we := true, addr := 0x00, wdata := 2 }
  | .rewind => { we := true, addr := 0x00, wdata := 3 }
  | .wrBlocks data => { we := true, addr := 0x08, wdata := data }
  | .rdBlocks => { we := false, addr := 0x08, wdata := 0 }
  | .wrSeedData data => { we := true, addr := 0x0C, wdata := data }
  | .rdOutData => { we := false, addr := 0x10, wdata := 0 }
  | .rdStatus => { we := false, addr := 0x04, wdata := 0 }
  | .rdSeedlenLo => { we := false, addr := 0x14, wdata := 0 }
  | .rdSeedlenHi => { we := false, addr := 0x18, wdata := 0 }
  | .rdNblk => { we := false, addr := 0x1C, wdata := 0 }
  | .rdOutpos => { we := false, addr := 0x20, wdata := 0 }
  | .rdParam => { we := false, addr := 0x24, wdata := 0 }

/-- The transaction word of an instruction. -/
def encode (i : Instr) : TWord := (encodeReq i).word

/-- The `mask` of an instruction's row in spec/opcode_table.json (R91). -/
def rowMask : Instr → TWord
  | .init => 0x1FFFFFFFFFF
  | .start => 0x1FFFFFFFFFF
  | .rewind => 0x1FFFFFFFFFF
  | .wrBlocks _ => 0x1FFFC000000
  | .rdBlocks => 0x1FF00000000
  | .wrSeedData _ => 0x1FFFFFFFF00
  | .rdOutData => 0x1FF00000000
  | .rdStatus => 0x1FF00000000
  | .rdSeedlenLo => 0x1FF00000000
  | .rdSeedlenHi => 0x1FF00000000
  | .rdNblk => 0x1FF00000000
  | .rdOutpos => 0x1FF00000000
  | .rdParam => 0x1FF00000000

/-- The `match` of an instruction's row in spec/opcode_table.json (R91). -/
def rowMatch : Instr → TWord
  | .init => 0x10000000001
  | .start => 0x10000000002
  | .rewind => 0x10000000003
  | .wrBlocks _ => 0x10800000000
  | .rdBlocks => 0x00800000000
  | .wrSeedData _ => 0x10C00000000
  | .rdOutData => 0x01000000000
  | .rdStatus => 0x00400000000
  | .rdSeedlenLo => 0x01400000000
  | .rdSeedlenHi => 0x01800000000
  | .rdNblk => 0x01C00000000
  | .rdOutpos => 0x02000000000
  | .rdParam => 0x02400000000

/-- A transaction word matches an instruction's row (R91). -/
abbrev MatchesRow (t : TWord) (i : Instr) : Prop := t &&& rowMask i = rowMatch i

/-- A number of the opcode table's bit numbering as a transaction word. A transaction has 41 bits; the
seven bits that pad it to whole bytes have no wire (log entry 8). -/
def tableWord (w : Nat) : TWord := BitVec.ofNat 41 w

/-- The instruction the decoder reads from a transaction written as a number. Every transaction has
the same length (R91), so the number of bits the table gives the row plays no part. -/
def decodeTableWord (_nbits w : Nat) : Option Instr :=
  match decode (tableWord w) with
  | .ok i => some i
  | .error _ => none

end Sys2Proof
end

