-- ==== Sys2Proof/Config.lean ====
section
/-! DEFINITION. The parameters of the block: the constants of spec/00_scope.md R5, and the two points
the spec leaves open as parameters, the schedule (spec/93_implementation_defined.md U4) and the base
address (U5), as opaque constants. -/

namespace Sys2Proof

/-- Who acts at one point of the total order of R73: the host, the engine, or the reset port
(R8, R280). -/
inductive Turn where
  | host
  | engine
  | reset
  deriving DecidableEq, Repr, Inhabited

/-- `DIGEST_BYTES` (R5): the size of one Digest Block. -/
abbrev Config.digestBytes : Nat := 64

/-- `HASH_CAP_BLOCKS` (R5): how many blocks are produced by hashing, block 0 included (92 D10). -/
abbrev Config.hashCapBlocks : Nat := 1024

/-- `FALLBACK_BYTES` (R5): the length of the accumulator prefix that the fallback repeats. -/
abbrev Config.fallbackBytes : Nat := 256

/-- `ACC_BYTES` (R5): the size of the accumulator, `HASH_CAP_BLOCKS * DIGEST_BYTES`. -/
abbrev Config.accBytes : Nat := 65536

/-- The size of the seed message-block buffer `WBUF` (R63). -/
abbrev Config.wbufBytes : Nat := 128

/-- The free schedule (R42, R73 (d), U4): whose turn it is at each point of the total order that
`State.schedule` does not list. It has no body, so nothing can be proved of its values and every
claim holds of every schedule. DESIGN CHOICE, log entry 1, safe. -/
opaque Config.freeTurn : Nat → Turn

/-- `BASE` (R71, U5): where the platform puts offset `0x00` of the register space. No rule depends
on it. Log entry 12, safe. -/
opaque Config.base : Nat

end Sys2Proof
end

