-- ==== Sys2Proof/Machine/Sha512.lean ====
section
/-! DEFINITION. The hash primitive, SHA-512, as spec/40_sha512_primitive.md defines it (R120 to R137;
log entry 7). Byte strings are lists of bytes (spec/00_scope.md R11). -/

namespace Sys2Proof.Machine

/-- A chaining value: eight 64-bit words, `h[0]` first (glossary of 00_scope.md; R21, R24, R133). -/
structure Chaining where
  h0 : Word64
  h1 : Word64
  h2 : Word64
  h3 : Word64
  h4 : Word64
  h5 : Word64
  h6 : Word64
  h7 : Word64
  deriving DecidableEq, Repr

/-- The working variables `a` to `h` of one compression (R22, R130): temporaries, not state. -/
structure Working where
  a : Word64
  b : Word64
  c : Word64
  d : Word64
  e : Word64
  f : Word64
  g : Word64
  h : Word64
  deriving DecidableEq, Repr

/-! ## Byte packing (R11, R64, R120): most significant byte first -/

/-- `be64(w)` (R11). -/
def be64 (w : Word64) : List Byte :=
  [w.extractLsb' 56 8, w.extractLsb' 48 8, w.extractLsb' 40 8, w.extractLsb' 32 8,
   w.extractLsb' 24 8, w.extractLsb' 16 8, w.extractLsb' 8 8, w.extractLsb' 0 8]

/-- `be128(v)` for `v < 2^128` (R11); a larger `v` never occurs (R137 (c)). -/
def be128 (v : Nat) : List Byte :=
  be64 (BitVec.ofNat 64 (v / 2 ^ 64)) ++ be64 (BitVec.ofNat 64 v)

/-- `word_be(s, j)` (R11): the word whose most significant byte is `s[8j]`. A byte beyond the end of
`s`, which no rule reads, counts as 0 (log entry 19). -/
def wordBe (s : List Byte) (j : Nat) : Word64 :=
  s.getD (8 * j) 0 ++ s.getD (8 * j + 1) 0 ++ s.getD (8 * j + 2) 0 ++ s.getD (8 * j + 3) 0 ++
  s.getD (8 * j + 4) 0 ++ s.getD (8 * j + 5) 0 ++ s.getD (8 * j + 6) 0 ++ s.getD (8 * j + 7) 0

/-- `0^k` (R11): `k` zero bytes. -/
def zeros (k : Nat) : List Byte := List.replicate k 0

/-! ## The six logical functions (R120 to R126) -/

/-- `ROTR_n(x)` (R120), for `0 < n < 64`; another `n` occurs in no rule (log entry 24). -/
def rotr (n : Nat) (x : Word64) : Word64 := x >>> n ||| x <<< (64 - n)

/-- R121. -/
def ch (x y z : Word64) : Word64 := (x &&& y) ^^^ (~~~x &&& z)

/-- R122. -/
def maj (x y z : Word64) : Word64 := (x &&& y) ^^^ (x &&& z) ^^^ (y &&& z)

/-- R123. -/
def bsig0 (x : Word64) : Word64 := rotr 28 x ^^^ rotr 34 x ^^^ rotr 39 x

/-- R124. -/
def bsig1 (x : Word64) : Word64 := rotr 14 x ^^^ rotr 18 x ^^^ rotr 41 x

/-- R125. -/
def ssig0 (x : Word64) : Word64 := rotr 1 x ^^^ rotr 8 x ^^^ x >>> 7

/-- R126. -/
def ssig1 (x : Word64) : Word64 := rotr 19 x ^^^ rotr 61 x ^^^ x >>> 6

/-! ## Constants -/

/-- The four words of one line of the table of R127, the first of the line in the most significant
bits. -/
def tableLine (line : BitVec 256) : List Word64 :=
  [192, 128, 64, 0].map (fun lsb => line.extractLsb' lsb 64)

/-- The lines of the table of R127 up to `K[39]`, each as one number. -/
def tableFirstHalf : List (BitVec 256) :=
    [0x428a2f98d728ae22_7137449123ef65cd_b5c0fbcfec4d3b2f_e9b5dba58189dbbc,
     0x3956c25bf348b538_59f111f1b605d019_923f82a4af194f9b_ab1c5ed5da6d8118,
     0xd807aa98a3030242_12835b0145706fbe_243185be4ee4b28c_550c7dc3d5ffb4e2,
     0x72be5d74f27b896f_80deb1fe3b1696b1_9bdc06a725c71235_c19bf174cf692694,
     0xe49b69c19ef14ad2_efbe4786384f25e3_0fc19dc68b8cd5b5_240ca1cc77ac9c65,
     0x2de92c6f592b0275_4a7484aa6ea6e483_5cb0a9dcbd41fbd4_76f988da831153b5,
     0x983e5152ee66dfab_a831c66d2db43210_b00327c898fb213f_bf597fc7beef0ee4,
     0xc6e00bf33da88fc2_d5a79147930aa725_06ca6351e003826f_142929670a0e6e70,
     0x27b70a8546d22ffc_2e1b21385c26c926_4d2c6dfc5ac42aed_53380d139d95b3df,
     0x650a73548baf63de_766a0abb3c77b2a8_81c2c92e47edaee6_92722c851482353b]

/-- The lines of the table of R127 from `K[40]` on, each as one number. -/
def tableSecondHalf : List (BitVec 256) :=
    [0xa2bfe8a14cf10364_a81a664bbc423001_c24b8b70d0f89791_c76c51a30654be30,
     0xd192e819d6ef5218_d69906245565a910_f40e35855771202a_106aa07032bbd1b8,
     0x19a4c116b8d2d0c8_1e376c085141ab53_2748774cdf8eeb99_34b0bcb5e19b48a8,
     0x391c0cb3c5c95a63_4ed8aa4ae3418acb_5b9cca4f7763e373_682e6ff3d6b2b8a3,
     0x748f82ee5defb2fc_78a5636f43172f60_84c87814a1f0ab72_8cc702081a6439ec,
     0x90befffa23631e28_a4506cebde82bde9_bef9a3f7b2c67915_c67178f2e372532b,
     0xca273eceea26619c_d186b8c721c0c207_eada7dd6cde0eb1e_f57d4f7fee6ed178,
     0x06f067aa72176fba_0a637dc5a2c898a6_113f9804bef90dae_1b710b35131c471b,
     0x28db77f523047d84_32caab7b40c72493_3c9ebe0a15c9bebc_431d67c49c100d4c,
     0x4cc5d4becb3e42b6_597f299cfc657e2a_5fcb6fab3ad6faec_6c44198c4a475817]

/-- `K[0..79]` (R127), read off its table line by line. -/
def roundConstants : List Word64 := (tableFirstHalf ++ tableSecondHalf).flatMap tableLine

/-- `IV` (R128). -/
def iv : Chaining where
  h0 := 0x6a09e667f3bcc908
  h1 := 0xbb67ae8584caa73b
  h2 := 0x3c6ef372fe94f82b
  h3 := 0xa54ff53a5f1d36f1
  h4 := 0x510e527fade682d1
  h5 := 0x9b05688c2b3e6c1f
  h6 := 0x1f83d9abfb41bd6b
  h7 := 0x5be0cd19137e2179

/-! ## The compression function (R129, R130, R133) -/

/-- `W[0..15]` (R129): the words of the message block. -/
def blockWords (b : List Byte) : List Word64 := (List.range 16).map (wordBe b)

/-- One more word of the message schedule: with `w` holding `W[0..t-1]`, `t = w.length`, the word
`W[t]` of R129 is appended. -/
def scheduleStep (w : List Word64) : List Word64 :=
  let t := w.length
  w ++ [ssig1 (w.getD (t - 2) 0) + w.getD (t - 7) 0 + ssig0 (w.getD (t - 15) 0)
    + w.getD (t - 16) 0]

/-- `n` more words of the message schedule. -/
def extendSchedule : Nat → List Word64 → List Word64
  | 0, w => w
  | n + 1, w => extendSchedule n (scheduleStep w)

/-- The message schedule `W[0..79]` of a block (R129). -/
def messageSchedule (b : List Byte) : List Word64 := extendSchedule 64 (blockWords b)

/-- One round (R130), with `k = K[t]` and `w = W[t]`. -/
def round (v : Working) (k w : Word64) : Working :=
  let t1 := v.h + bsig1 v.e + ch v.e v.f v.g + k + w
  let t2 := bsig0 v.a + maj v.a v.b v.c
  { a := t1 + t2, b := v.a, c := v.b, d := v.c, e := v.d + t1, f := v.e, g := v.f, h := v.g }

/-- The rounds, one for each pair `(K[t], W[t])`, in order (R133). -/
def rounds (v : Working) (kws : List (Word64 × Word64)) : Working :=
  kws.foldl (fun v kw => round v kw.1 kw.2) v

/-- The working variables at the start of a compression (R133). -/
def Working.ofChaining (h : Chaining) : Working :=
  { a := h.h0, b := h.h1, c := h.h2, d := h.h3, e := h.h4, f := h.h5, g := h.h6, h := h.h7 }

/-- The chaining value after a compression: each word plus its working variable (R133). -/
def Chaining.addWorking (h : Chaining) (v : Working) : Chaining :=
  { h0 := h.h0 + v.a, h1 := h.h1 + v.b, h2 := h.h2 + v.c, h3 := h.h3 + v.d,
    h4 := h.h4 + v.e, h5 := h.h5 + v.f, h6 := h.h6 + v.g, h7 := h.h7 + v.h }

/-- `compress(h, b)` (R133): one evaluation of the compression function on a 128-byte block. It is
irreducible so that no proof opens it by accident: nothing in the engine depends on more than that it
is a function of its two arguments (R7). -/
@[irreducible] def compress (h : Chaining) (b : List Byte) : Chaining :=
  h.addWorking (rounds (.ofChaining h) (roundConstants.zip (messageSchedule b)))

/-! ## Padding, digest and the whole hash (R131, R132, R134 to R136) -/

/-- The padding of a message of `len` bytes (R131): what `pad` appends to it. -/
def padding (len : Nat) : List Byte :=
  [0x80] ++ zeros ((111 + 128 - len % 128) % 128) ++ be128 (8 * len)

/-- `pad(m)` (R131). -/
def pad (m : List Byte) : List Byte := m ++ padding m.length

/-- The number of message blocks of `pad(m)` for a message of `len` bytes (R131). -/
def paddedBlocks (len : Nat) : Nat := (len + 17 + 127) / 128

/-- Compresses the first `n` message blocks of `s` in order, starting from `c` (R132, R136). -/
def absorbBlocks : Nat → Chaining → List Byte → Chaining
  | 0, c, _ => c
  | n + 1, c, s => absorbBlocks n (compress c (s.take 128)) (s.drop 128)

/-- `absorb(c, s)` (R136), for a byte string whose length is a multiple of 128. That it leaves out the
rest of another string is the model's choice: DESIGN CHOICE, log entry 24. -/
def absorb (c : Chaining) (s : List Byte) : Chaining := absorbBlocks (s.length / 128) c s

/-- `digest_bytes(h)` (R134): 64 bytes. Irreducible, like `compress`. -/
@[irreducible] def digestBytes (h : Chaining) : List Byte :=
  be64 h.h0 ++ be64 h.h1 ++ be64 h.h2 ++ be64 h.h3 ++
  be64 h.h4 ++ be64 h.h5 ++ be64 h.h6 ++ be64 h.h7

/-- `SHA512(m)` (R135), the `hash` of this block (R7). -/
def sha512 (m : List Byte) : List Byte := digestBytes (absorb iv (pad m))

end Sys2Proof.Machine
end

