-- ==== Sys2Proof/Machine/State.lean ====
section
/-! DEFINITION. The state of the block (spec/10_state.md R20), the interface state (R45, spec/30_encoding.md
R90), the two inputs of a run (R42: the host's script and the schedule), and the state after reset
(R43). -/

namespace Sys2Proof.Machine

/-- The sequencer state `PHASE` (R30). -/
inductive Phase where
  /-- 0: accepting seed bytes and the block count. -/
  | seed
  /-- 1: seed closed, the engine is padding and finishing the seed's hash. -/
  | pad
  /-- 2: block 0 exists, the engine is extending the chain. -/
  | chain
  /-- 3: every hashed block exists. -/
  | done
  deriving DecidableEq, Repr

/-- The cause codes of R251. Each is raised by a bus transaction, and raising one is a next state
(R255), not a fault of the model. -/
inductive ErrCode where
  /-- 1, `E_ACCESS` (R252). -/
  | access
  /-- 2, `E_BADCMD` (R253). -/
  | badCmd
  /-- 3, `E_BADVAL` (R254). -/
  | badVal
  /-- 4, `E_SEQ` (R256). -/
  | seq
  /-- 5, `E_BADLEN` (R257). -/
  | badLen
  /-- 6, `E_UNDERRUN` (R258). -/
  | underrun
  /-- 7, `E_SEEDOVF` (R259). -/
  | seedOvf
  deriving DecidableEq, Repr

/-- What the outcome lines `ack`, `err`, `rdata` say of the latest transaction (R9, R92). -/
inductive Response where
  /-- `ack = 0`: nothing has been completed since the port was last presented a transaction, or since
  reset. -/
  | idle
  /-- `ack = 0`: the transaction at the port was tried and is held (R152). -/
  | held
  /-- `OK` of a write: `ack = 1`, `err = 0`. -/
  | ok
  /-- `OK(v)` of a read: `ack = 1`, `err = 0`, `rdata = v`. -/
  | okRead (v : Word32)
  /-- `ERR(code)`: `ack = 1`, `err = 1`. It carries no read data (93 U3), and the code is not on the
  bus (log entry 4). -/
  | err (code : ErrCode)
  deriving DecidableEq, Repr

/-- One item of the host's script (R42; R106 for the poll). -/
inductive HostAction where
  /-- Present this transaction. -/
  | txn (r : BusReq)
  /-- `WAITDONE` (R106): read `STATUS` until its bit 3 is 1. `polled` says that a read has been
  presented and its value is to be looked at. -/
  | waitDone (polled : Bool)
  deriving DecidableEq, Repr

/-- The two byte-addressed storages (R60). -/
inductive Space where
  /-- The accumulator, 65536 bytes (R62). -/
  | acc
  /-- The seed block buffer, 128 bytes (R63). -/
  | wbuf
  deriving DecidableEq, Repr

/-- The contents of a storage: the written cells, addresses strictly rising. A cell that is not listed
has not been written and has no value (93 U1; log entry 6). -/
abbrev Mem := List Host.Cell

/-- Where the model stops. Neither is an outcome of the hardware, and no run reaches either (R44,
R67). -/
inductive Fault where
  /-- Raised by a read of a cell of `ACC` or `WBUF` that nothing has written (93 U1). Safe: the model
  stops where the hardware would return some byte. -/
  | unwrittenCell (space : Space) (addr : Nat)
  /-- Raised by an access to an address outside `ACC` or `WBUF` (R60). Safe: the hardware has no such
  access. -/
  | noSuchAddress (space : Space) (addr : Nat)
  deriving DecidableEq, Repr

/-- What the model refuses. -/
inductive Refusal where
  /-- Raised by `exec` alone, for an instruction that has no meaning in the model. No arm raises it:
  every row of the opcode table has its meaning. Safe. -/
  | notModelled (mnemonic : String)
  deriving DecidableEq, Repr

/-- The state: the tuple of R20, the interface (R45, R90), and the inputs of the run (R42). -/
structure State where
  /-- `PHASE` (R30). -/
  phase : Phase
  /-- `PAD80` (R28): the padding byte `0x80` has been compressed already. -/
  pad80 : Bool
  /-- `WFILL` (R26): the number of valid bytes in `WBUF`. -/
  wfill : BitVec 8
  /-- `SEEDLEN` (R27): the number of seed bytes accepted. -/
  seedlen : BitVec 64
  /-- `HS[0..7]` (R21): the chaining value of the seed's hash. -/
  hs : Chaining
  /-- `WBUF[0..127]` (R25): the seed message block being assembled. -/
  wbuf : Mem
  /-- `MS[0..7]` (R24): the midstate of the chain. -/
  ms : Chaining
  /-- `NBLK` (R31): the number of Digest Blocks in `ACC`. -/
  nblk : BitVec 11
  /-- `NABS` (R32): the number of message blocks of `ACC` folded into `MS`. -/
  nabs : BitVec 9
  /-- `ACC[0..65535]` (R40): the accumulator. -/
  acc : Mem
  /-- `BLOCKS` (R34): the requested number of blocks. -/
  blocks : BitVec 26
  /-- `OUTPOS` (R33): the stream position of the next byte read. -/
  outpos : BitVec 32
  /-- `ERR` (R35): the sticky error flag. -/
  err : Bool
  /-- `ERRCODE` (R35): the code of the first error. -/
  errcode : BitVec 4
  /-- The outstanding transaction, `none` where `req = 0` (R45, R90). -/
  bus : Option BusReq
  /-- The outcome lines (R90, R92). -/
  response : Response
  /-- The model's own (log entry 2): what the host has still to present. -/
  script : List HostAction
  /-- The model's own (log entry 1): the turns that come next. -/
  schedule : List Turn
  /-- The model's own (log entry 1): where the free schedule is read once `schedule` is empty. -/
  turnCount : Nat
  deriving DecidableEq, Repr

/-- The contents of `MS` at reset, which R43 leaves unspecified: DESIGN CHOICE, log entry 5, unsafe. -/
def Chaining.atReset : Chaining :=
  { h0 := 0, h1 := 0, h2 := 0, h3 := 0, h4 := 0, h5 := 0, h6 := 0, h7 := 0 }

/-- The machine right after reset (R43). The storages list nothing (log entry 6), no transaction is
outstanding, and the host's script and the schedule are empty (log entries 1 and 2). -/
def State.reset : State where
  phase := .seed
  pad80 := false
  wfill := 0
  seedlen := 0
  hs := iv
  wbuf := []
  ms := Chaining.atReset
  nblk := 0
  nabs := 0
  acc := []
  blocks := 0
  outpos := 0
  err := false
  errcode := 0
  bus := none
  response := .idle
  script := []
  schedule := []
  turnCount := 0

end Sys2Proof.Machine
end

