-- ==== Sys2Proof/Machine/Operands.lean ====
section
/-! DEFINITION. Operand assembly (spec/30_encoding.md R103), the codes of named values (R95, R251), the
ports as wires (R90, R92) and the values the readable registers show (R95 to R100). -/

namespace Sys2Proof.Machine

/-! ## Operands of writes and zero extension of reads (R103) -/

/-- The block count `DATA[25:0]` (R96, R103). -/
def blockCount (data : Word32) : BitVec 26 := data.extractLsb' 0 26

/-- The seed byte `DATA[7:0]` (R97, R103). -/
def seedByte (data : Word32) : Byte := data.extractLsb' 0 8

/-- `zext_32(v)` (R10). -/
def zext32 {n : Nat} (v : BitVec n) : Word32 := v.setWidth 32

/-! ## Codes -/

/-- The value of `PHASE` (R30). -/
def Phase.code : Phase → BitVec 2
  | .seed => 0
  | .pad => 1
  | .chain => 2
  | .done => 3

/-- The value recorded in `ERRCODE` (R251). -/
def ErrCode.code : ErrCode → BitVec 4
  | .access => 1
  | .badCmd => 2
  | .badVal => 3
  | .seq => 4
  | .badLen => 5
  | .underrun => 6
  | .seedOvf => 7

/-- The error a rejected word raises (R101, R150 step 1). -/
def rejectCode : Reject → ErrCode
  | .illegalAccess => .access
  | .reservedCommand => .badCmd
  | .reservedValue => .badVal

/-! ## Named parts of the state (R36, R154, R159) -/

/-- `G = min(BLOCKS, 1024)` (R36, R191). -/
def State.hashGoal (s : State) : Nat := min s.blocks.toNat Config.hashCapBlocks

/-- `64 * BLOCKS`: the length of the Expanded Stream in bytes (R33). -/
def State.streamLength (s : State) : Nat := Config.digestBytes * s.blocks.toNat

/-! ## The outcome lines as wires (R90, R92) -/

/-- Port `req`. -/
def State.req (s : State) : Bool := s.bus.isSome

/-- Port `ack`. -/
def Response.ack : Response → Bool
  | .idle => false
  | .held => false
  | .ok => true
  | .okRead _ => true
  | .err _ => true

/-- Port `err`, where it is valid (with `ack`). -/
def Response.errLine : Response → Option Bool
  | .idle => none
  | .held => none
  | .ok => some false
  | .okRead _ => some false
  | .err _ => some true

/-- Port `rdata`, where it is valid (with `ack` and `err = 0`, on a read); no value elsewhere (93 U3,
log entry 4). -/
def Response.rdata : Response → Option Word32
  | .idle => none
  | .held => none
  | .ok => none
  | .okRead v => some v
  | .err _ => none

/-- The value of register `PARAM` (R38, R100): `FALLBACK_BYTES` in bits 31:16, `HASH_CAP_BLOCKS` in
bits 15:0. -/
def paramWord : Word32 :=
  BitVec.ofNat 16 Config.fallbackBytes ++ BitVec.ofNat 16 Config.hashCapBlocks

end Sys2Proof.Machine
end

