-- ==== Sys2Proof/Machine/Flags.lean ====
section
/-! DEFINITION. The derived flags (spec/10_state.md R36) and the word register `STATUS` shows
(spec/30_encoding.md R95, spec/41_host_operations.md R160). -/

namespace Sys2Proof.Machine

/-- `PHASE = CHAIN or PHASE = DONE`: Digest Block 0 exists (R36). -/
def State.hasStream (s : State) : Bool := s.phase == .chain || s.phase == .done

/-- `BUSY` (R36). -/
def State.busy (s : State) : Bool := s.phase == .pad || s.phase == .chain

/-- `DONE` (R36). -/
def State.doneFlag (s : State) : Bool := s.phase == .done

/-- `SEED_RDY` (R36). -/
def State.seedRdy (s : State) : Bool :=
  s.phase == .seed && decide (s.wfill.toNat < Config.wbufBytes)

/-- `OUT_VALID` (R36): the next stream byte can be returned without a hold. -/
def State.outValid (s : State) : Bool :=
  s.hasStream && decide (s.outpos.toNat < s.streamLength) &&
    (decide (s.outpos.toNat < Config.digestBytes * s.nblk.toNat)
      || decide (s.nblk.toNat = Config.hashCapBlocks))

/-- `OUT_END` (R36). -/
def State.outEnd (s : State) : Bool :=
  s.hasStream && decide (s.outpos.toNat = s.streamLength)

/-- `FALLBACK` (R36). -/
def State.fallbackFlag (s : State) : Bool :=
  s.hasStream && decide (Config.accBytes ≤ s.outpos.toNat)

/-- The word register `STATUS` shows: the layout of R95, from bit 31 down to bit 0. -/
def State.statusWord (s : State) : Word32 :=
  (0 : BitVec 19) ++ BitVec.ofBool s.fallbackFlag ++ s.errcode ++ BitVec.ofBool s.err ++
    BitVec.ofBool s.outEnd ++ BitVec.ofBool s.outValid ++ BitVec.ofBool s.seedRdy ++
    BitVec.ofBool s.doneFlag ++ BitVec.ofBool s.busy ++ s.phase.code

end Sys2Proof.Machine
end

