-- ==== Sys2Proof/Machine/Ops.lean ====
section
/-! DEFINITION. The operations the meanings share: reading and writing the storages (spec/20_memory.md R60,
spec/00_scope.md R12), completing, holding and refusing a transaction (spec/60_exceptions.md R255,
spec/41_host_operations.md R150 to R152), and the reset values (spec/10_state.md R43). -/

namespace Sys2Proof.Machine

/-! ## One storage -/

/-- The size of a storage in bytes (R60). -/
def Space.size : Space → Nat
  | .acc => Config.accBytes
  | .wbuf => Config.wbufBytes

/-- The byte at an address, `none` where nothing has written it. -/
def Mem.read : Mem → Nat → Option Byte
  | [], _ => none
  | (k, v) :: rest, a => if k = a then some v else Mem.read rest a

/-- The contents after byte `v` is written at address `a`; the addresses stay strictly rising. -/
def Mem.write : Mem → Nat → Byte → Mem
  | [], a, v => [(a, v)]
  | (k, w) :: rest, a, v =>
    if a < k then (a, v) :: (k, w) :: rest
    else if k = a then (a, v) :: rest
    else (k, w) :: Mem.write rest a v

/-- The contents after the bytes `bs` are written from address `a` on. -/
def Mem.writeBytes : Mem → Nat → List Byte → Mem
  | m, _, [] => m
  | m, a, b :: bs => Mem.writeBytes (m.write a b) (a + 1) bs

/-- The addresses of the list are strictly rising and all at least `lo`. -/
def Mem.risingFrom (lo : Nat) : Mem → Bool
  | [] => true
  | (k, _) :: rest => decide (lo ≤ k) && Mem.risingFrom (k + 1) rest

/-- The canonical form of the contents of a storage of `size` bytes: addresses strictly rising, each
below `size`. An unlisted cell has no value, so no entry can equal what an unlisted cell reads as. -/
def Mem.wf (size : Nat) (m : Mem) : Bool :=
  m.risingFrom 0 && m.all (fun c => decide (c.1 < size))

/-! ## The storages of the state -/

/-- The contents of a storage. -/
def State.mem (s : State) : Space → Mem
  | .acc => s.acc
  | .wbuf => s.wbuf

/-- The state with other contents of a storage. -/
def State.setMem (s : State) : Space → Mem → State
  | .acc, m => { s with acc := m }
  | .wbuf, m => { s with wbuf := m }

/-- One byte of a storage: it faults outside the storage (R60) and on a cell nothing has written
(93 U1). -/
def loadByte (s : State) (sp : Space) (a : Nat) : Except Fault Byte :=
  if a < sp.size then
    match (s.mem sp).read a with
    | some v => .ok v
    | none => .error (.unwrittenCell sp a)
  else .error (.noSuchAddress sp a)

/-- `MemRead(space, a, n)` (R12): the `n` bytes from address `a` on. -/
def memRead (s : State) (sp : Space) (a : Nat) : Nat → Except Fault (List Byte)
  | 0 => .ok []
  | n + 1 =>
    match loadByte s sp a with
    | .error f => .error f
    | .ok v =>
      match memRead s sp (a + 1) n with
      | .error f => .error f
      | .ok vs => .ok (v :: vs)

/-- `MemWrite(space, a, n, bs)` (R12), with `n` the length of `bs`. Nothing is written where a byte
would fall outside the storage. -/
def memWrite (s : State) (sp : Space) (a : Nat) (bs : List Byte) : Except Fault State :=
  if a + bs.length ≤ sp.size then .ok (s.setMem sp ((s.mem sp).writeBytes a bs))
  else .error (.noSuchAddress sp (a + bs.length - 1))

/-! ## The outcome of a transaction -/

/-- The transaction completes with an outcome; the port is free for the next one (R9, R45). -/
def State.complete (s : State) (r : Response) : State :=
  { s with bus := none, response := r }

/-- The transaction is held (R150 step 4): it stays at the port and nothing else changes. -/
def State.hold (s : State) : State := { s with response := .held }

/-- `raise Err(code)` (R255): the transaction completes with the error response; the first error since
`INIT` or reset is recorded; nothing else changes. -/
def State.raiseErr (s : State) (c : ErrCode) : State :=
  { s with
    err := true
    errcode := if s.err then s.errcode else c.code
    bus := none
    response := .err c }

/-! ## Reset values -/

/-- The values that reset and `INIT` share (R43, R153): everything but `MS`, `WBUF`, `ACC` and the
interface. -/
def State.newExpansion (s : State) : State :=
  { s with
    phase := .seed
    pad80 := false
    wfill := 0
    seedlen := 0
    hs := iv
    nblk := 0
    nabs := 0
    outpos := 0
    blocks := 0
    err := false
    errcode := 0 }

/-- The effect of `rst` (R281): every piece of the block's state takes its reset value and an
outstanding transaction is discarded without a response. The script and the schedule belong to the
outside world and stay (log entry 13). -/
def State.assertReset (s : State) : State :=
  { State.reset with script := s.script, schedule := s.schedule, turnCount := s.turnCount }

end Sys2Proof.Machine
end

