-- ==== Sys2Proof/Machine/Commands.lean ====
section
/-! DEFINITION. The three commands, writes to `CTRL` (spec/41_host_operations.md R153 to R155). -/

namespace Sys2Proof.Machine

/-- `INIT` (R153): refused while busy; otherwise everything but `MS`, `WBUF` and `ACC` takes its reset
value. -/
def execInit (s : State) : Host.Outcome State Fault Refusal :=
  if s.busy then .next (s.raiseErr .seq)
  else .next (s.newExpansion.complete .ok)

/-- `START` (R154): refused after `START`, and with `BLOCKS = 0`; otherwise `PHASE` becomes `PAD`. -/
def execStart (s : State) : Host.Outcome State Fault Refusal :=
  if s.phase ≠ .seed then .next (s.raiseErr .seq)
  else if s.blocks = 0 then .next (s.raiseErr .badLen)
  else .next ({ s with phase := .pad }.complete .ok)

/-- `REWIND` (R155): refused before `START`; otherwise `OUTPOS` becomes 0. -/
def execRewind (s : State) : Host.Outcome State Fault Refusal :=
  if s.phase = .seed then .next (s.raiseErr .seq)
  else .next ({ s with outpos := 0 }.complete .ok)

end Sys2Proof.Machine
end

