-- ==== Sys2Proof/Machine/Expand.lean ====
section
/-! DEFINITION. The function the block computes, `expand` (spec/42_engine_steps.md R190), stated on
byte strings alone, with no reference to the machine. Statements compare the machine with it. -/

namespace Sys2Proof.Machine

/-- The number of hashed blocks `G = min(n, 1024)` of an expansion of `n` blocks (R190). -/
def hashedBlocks (n : Nat) : Nat := min n Config.hashCapBlocks

/-- `blk[0] ++ ... ++ blk[k-1]` (R190): the accumulator after `k <= 1024` hashed blocks. That the total
function goes on hashing beyond the cap is the model's choice: DESIGN CHOICE, log entry 23. -/
def chainBytes (seed : List Byte) : Nat → List Byte
  | 0 => []
  | 1 => sha512 seed
  | k + 2 => chainBytes seed (k + 1) ++ sha512 (chainBytes seed (k + 1))

/-- `blk[i]` (R190), for `i < 1024`: the hash of the seed for block 0, of all earlier blocks for the
others. That it goes on hashing from 1024 on is the model's choice: DESIGN CHOICE, log entry 23. -/
def blk (seed : List Byte) (i : Nat) : List Byte :=
  if i = 0 then sha512 seed else sha512 (chainBytes seed i)

/-- Where stream byte `p` is found in the accumulator (R62, R199): `p` itself below 65536, and
`p mod 256`, the repeat fallback, from there on. -/
def streamAddr (p : Nat) : Nat :=
  if p < Config.accBytes then p else p % Config.fallbackBytes

/-- `out[p]` (R190) for an expansion of `n >= 1` blocks and `p < 64*n`. That it is a byte for other `n` and
`p` too is the model's choice: DESIGN CHOICE, log entry 23. -/
def streamByte (seed : List Byte) (n p : Nat) : Byte :=
  let acc := chainBytes seed (hashedBlocks n)
  if p < Config.digestBytes * hashedBlocks n then acc.getD p 0
  else acc.getD (p % Config.fallbackBytes) 0

/-- `expand(seed, 64*n)` (R190), for `n >= 1`. The spec defines no result for `n = 0`; that this total
function then gives the empty list is the model's choice: DESIGN CHOICE, log entry 23. The block never asks
for it: `START` refuses `BLOCKS = 0` (R154, R257). -/
def expand (seed : List Byte) (n : Nat) : List Byte :=
  (List.range (Config.digestBytes * n)).map (streamByte seed n)

end Sys2Proof.Machine
end

