-- ==== Sys2Proof/Machine/DataPorts.lean ====
section
/-! DEFINITION. The block count, the seed port and the output port (spec/41_host_operations.md R156 to
R159). -/

namespace Sys2Proof.Machine

/-- `WR BLOCKS` (R156): the value check, the phase check, then `BLOCKS` takes `DATA[25:0]`. -/
def execWrBlocks (data : Word32) (s : State) : Host.Outcome State Fault Refusal :=
  if !blocksDataLegal data then .next (s.raiseErr .badVal)
  else if s.phase ≠ .seed then .next (s.raiseErr .seq)
  else .next ({ s with blocks := blockCount data }.complete .ok)

/-- `RD BLOCKS` (R157). -/
def execRdBlocks (s : State) : Host.Outcome State Fault Refusal :=
  .next (s.complete (.okRead (zext32 s.blocks)))

/-- `WR SEED_DATA` (R158): the value, phase and overflow checks, the hold while `WBUF` is full, then the
byte is appended. -/
def execWrSeedData (data : Word32) (s : State) : Host.Outcome State Fault Refusal :=
  if !seedDataLegal data then .next (s.raiseErr .badVal)
  else if s.phase ≠ .seed then .next (s.raiseErr .seq)
  else if s.seedlen.toNat = 2 ^ 64 - 1 then .next (s.raiseErr .seedOvf)
  else if Config.wbufBytes ≤ s.wfill.toNat then .next s.hold
  else
    match memWrite s .wbuf s.wfill.toNat [seedByte data] with
    | .error f => .fault f
    | .ok s1 =>
      .next ({ s1 with wfill := s.wfill + 1, seedlen := s.seedlen + 1 }.complete .ok)

/-- `RD OUT_DATA` (R159): the phase and end-of-stream checks, the hold until the byte exists, then the
byte at the address of R199 is returned and `OUTPOS` advances. -/
def execRdOutData (s : State) : Host.Outcome State Fault Refusal :=
  if s.phase = .seed then .next (s.raiseErr .seq)
  else if s.outpos.toNat = s.streamLength then .next (s.raiseErr .underrun)
  else if !s.outValid then .next s.hold
  else
    match loadByte s .acc (streamAddr s.outpos.toNat) with
    | .error f => .fault f
    | .ok v => .next ({ s with outpos := s.outpos + 1 }.complete (.okRead (zext32 v)))

end Sys2Proof.Machine
end

