-- ==== Sys2Proof/Machine/StatusReads.lean ====
section
/-! DEFINITION. The status and counter reads (spec/41_host_operations.md R160 to R165): legal in every
phase, never held, no side effect (spec/20_memory.md R69). -/

namespace Sys2Proof.Machine

/-- `RD STATUS` (R160). -/
def execRdStatus (s : State) : Host.Outcome State Fault Refusal :=
  .next (s.complete (.okRead s.statusWord))

/-- `RD SEEDLEN_LO` (R161): `SEEDLEN[31:0]`. -/
def execRdSeedlenLo (s : State) : Host.Outcome State Fault Refusal :=
  .next (s.complete (.okRead (s.seedlen.extractLsb' 0 32)))

/-- `RD SEEDLEN_HI` (R162): `SEEDLEN[63:32]`. -/
def execRdSeedlenHi (s : State) : Host.Outcome State Fault Refusal :=
  .next (s.complete (.okRead (s.seedlen.extractLsb' 32 32)))

/-- `RD NBLK` (R163). -/
def execRdNblk (s : State) : Host.Outcome State Fault Refusal :=
  .next (s.complete (.okRead (zext32 s.nblk)))

/-- `RD OUTPOS` (R164). -/
def execRdOutpos (s : State) : Host.Outcome State Fault Refusal :=
  .next (s.complete (.okRead s.outpos))

/-- `RD PARAM` (R165). -/
def execRdParam (s : State) : Host.Outcome State Fault Refusal :=
  .next (s.complete (.okRead paramWord))

end Sys2Proof.Machine
end

