-- ==== Sys2Proof/Machine/Dispatch.lean ====
section
/-! DEFINITION. One arm per instruction. -/

namespace Sys2Proof.Machine

-- The outcome of a transaction that is the instruction i, performed in state s (spec/41_host_operations.md R150).
def exec (i : Instr) (s : State) : Host.Outcome State Fault Refusal :=
  match i with
  | .init => Sys2Proof.Machine.execInit s
  | .start => Sys2Proof.Machine.execStart s
  | .rewind => Sys2Proof.Machine.execRewind s
  | .wrBlocks data => Sys2Proof.Machine.execWrBlocks data s
  | .rdBlocks => Sys2Proof.Machine.execRdBlocks s
  | .wrSeedData data => Sys2Proof.Machine.execWrSeedData data s
  | .rdOutData => Sys2Proof.Machine.execRdOutData s
  | .rdStatus => Sys2Proof.Machine.execRdStatus s
  | .rdSeedlenLo => Sys2Proof.Machine.execRdSeedlenLo s
  | .rdSeedlenHi => Sys2Proof.Machine.execRdSeedlenHi s
  | .rdNblk => Sys2Proof.Machine.execRdNblk s
  | .rdOutpos => Sys2Proof.Machine.execRdOutpos s
  | .rdParam => Sys2Proof.Machine.execRdParam s

end Sys2Proof.Machine
end

