-- ==== Sys2Proof/Machine/Engine.lean ====
section
/-! DEFINITION. The engine (spec/42_engine_steps.md R191 to R198): five steps, each one compression, at
most one of them enabled. -/

namespace Sys2Proof.Machine

/-- The engine's steps (R192 to R196). -/
inductive EngineStep where
  /-- `E_SEEDBLK` (R192): compress one full block of seed. -/
  | seedBlk
  /-- `E_PAD1` (R193): the first of two padding blocks. -/
  | pad1
  /-- `E_SEEDFINAL` (R194): the last block of the seed's hash; writes Digest Block 0. -/
  | seedFinal
  /-- `E_ABSORB` (R195): fold the newest pair of Digest Blocks into the midstate. -/
  | absorb
  /-- `E_FINAL` (R196): produce the next Digest Block. -/
  | final
  deriving DecidableEq, Repr

/-- "Enabled when" of each step rule (R192 to R196). -/
def EngineStep.enabled (s : State) : EngineStep → Bool
  | .seedBlk => (s.phase == .seed || s.phase == .pad) && decide (s.wfill.toNat = 128)
  | .pad1 => s.phase == .pad && decide (112 ≤ s.wfill.toNat ∧ s.wfill.toNat ≤ 127)
  | .seedFinal => s.phase == .pad && decide (s.wfill.toNat ≤ 111)
  | .absorb =>
    s.phase == .chain &&
      decide (s.nblk.toNat % 2 = 0 ∧ s.nabs.toNat + 1 = s.nblk.toNat / 2)
  | .final => s.phase == .chain && decide (s.nabs.toNat = s.nblk.toNat / 2)

/-! ## The message blocks the steps compress -/

/-- The block of `E_PAD1` (R193): the seed bytes in `WBUF`, `0x80`, zeros. -/
def pad1Block (w : List Byte) : List Byte := w ++ [0x80] ++ zeros (127 - w.length)

/-- The block of `E_SEEDFINAL` (R194): the seed bytes in `WBUF`, `0x80` unless it has been compressed
already, zeros, and the length of the seed in bits. -/
def seedFinalBlock (pad80 : Bool) (w : List Byte) (seedlen : Nat) : List Byte :=
  let pre := w ++ (if pad80 then [] else [0x80])
  pre ++ zeros (112 - pre.length) ++ be128 (8 * seedlen)

/-- The block of `E_FINAL` for block `i` (R196): for odd `i` the Digest Block `lastBlock` before it and
the padding, for even `i` the padding alone; then the length of the accumulator in bits. -/
def finalBlock (i : Nat) (lastBlock : List Byte) : List Byte :=
  if i % 2 = 1 then lastBlock ++ [0x80] ++ zeros 47 ++ be128 (512 * i)
  else [0x80] ++ zeros 111 ++ be128 (512 * i)

/-! ## The steps -/

/-- `E_SEEDBLK` (R192). -/
def engineSeedBlk (s : State) : Host.Outcome State Fault Refusal :=
  match memRead s .wbuf 0 128 with
  | .error f => .fault f
  | .ok b => .next { s with hs := compress s.hs b, wfill := 0 }

/-- `E_PAD1` (R193). -/
def enginePad1 (s : State) : Host.Outcome State Fault Refusal :=
  match memRead s .wbuf 0 s.wfill.toNat with
  | .error f => .fault f
  | .ok w => .next { s with hs := compress s.hs (pad1Block w), wfill := 0, pad80 := true }

/-- `E_SEEDFINAL` (R194). -/
def engineSeedFinal (s : State) : Host.Outcome State Fault Refusal :=
  match memRead s .wbuf 0 s.wfill.toNat with
  | .error f => .fault f
  | .ok w =>
    let h := compress s.hs (seedFinalBlock s.pad80 w s.seedlen.toNat)
    match memWrite s .acc 0 (digestBytes h) with
    | .error f => .fault f
    | .ok s1 =>
      .next { s1 with
        hs := h
        nblk := 1
        nabs := 0
        pad80 := false
        wfill := 0
        ms := iv
        phase := if s.hashGoal = 1 then .done else .chain }

/-- `E_ABSORB` (R195). -/
def engineAbsorb (s : State) : Host.Outcome State Fault Refusal :=
  match memRead s .acc (128 * s.nabs.toNat) 128 with
  | .error f => .fault f
  | .ok b => .next { s with ms := compress s.ms b, nabs := s.nabs + 1 }

/-- What `E_FINAL` reads of `ACC` (R196): for odd `i` the Digest Block before block `i`, for even `i`
nothing. -/
def readLastBlock (s : State) (i : Nat) : Except Fault (List Byte) :=
  if i % 2 = 1 then memRead s .acc (64 * (i - 1)) 64 else .ok []

/-- `E_FINAL` (R196). `MS` is not changed. -/
def engineFinal (s : State) : Host.Outcome State Fault Refusal :=
  let i := s.nblk.toNat
  match readLastBlock s i with
  | .error f => .fault f
  | .ok d =>
    match memWrite s .acc (64 * i) (digestBytes (compress s.ms (finalBlock i d))) with
    | .error f => .fault f
    | .ok s1 =>
      .next { s1 with
        nblk := s.nblk + 1
        phase := if i + 1 = s.hashGoal then .done else s.phase }

/-- The operation of a step (R192 to R196). -/
def EngineStep.run : EngineStep → State → Host.Outcome State Fault Refusal
  | .seedBlk, s => engineSeedBlk s
  | .pad1, s => enginePad1 s
  | .seedFinal, s => engineSeedFinal s
  | .absorb, s => engineAbsorb s
  | .final, s => engineFinal s

/-- The step that is enabled, if one is (R191, R197). -/
def enabledStep (s : State) : Option EngineStep :=
  [EngineStep.seedBlk, .pad1, .seedFinal, .absorb, .final].find? (EngineStep.enabled s)

/-- The engine's turn: it takes the enabled step (R191). Where none is enabled it has nothing to do. -/
def engineTurn (s : State) : Host.Outcome State Fault Refusal :=
  match enabledStep s with
  | some e => e.run s
  | none => .next s

end Sys2Proof.Machine
end

