-- ==== Sys2Proof/Machine/Agents.lean ====
section
/-! DEFINITION. The two agents and their turns (spec/00_scope.md R8, spec/20_memory.md R73): whose turn it
is, what the host does with its turn, and how an instruction comes to stand at the port. -/

namespace Sys2Proof.Machine

/-- Whose turn it is, and the state with that turn taken off the schedule: the head of `schedule`, or,
where it is empty, the next turn of the free schedule (R42, R73 (d); log entry 1). -/
def takeTurn (s : State) : Turn × State :=
  match s.schedule with
  | t :: ts => (t, { s with schedule := ts })
  | [] => (Config.freeTurn s.turnCount, { s with turnCount := s.turnCount + 1 })

/-- The transaction `RD STATUS`, which `WAITDONE` repeats (R106). -/
def statusPoll : BusReq := encodeReq .rdStatus

/-- A poll of `STATUS` has returned a word whose bit 3, `DONE`, is 1 (R95, R106). -/
def pollSawDone : Response → Bool
  | .okRead v => v.getLsbD 3
  | .idle => false
  | .held => false
  | .ok => false
  | .err _ => false

/-- The state with transaction `r` standing at the port (`req = 1`), not yet performed (R45). -/
def State.offer (s : State) (r : BusReq) (rest : List HostAction) : State :=
  { s with bus := some r, response := .idle, script := rest }

/-- The host's turn while no transaction is outstanding: it presents the next transaction of its script
(R73 (b)), or has nothing to present (log entry 2). `WAITDONE` looks at the latest response on the host's
turn after the poll; a turn that sees bit 3 set presents nothing. A reset before that turn, even after the
poll has returned bit 3 as 1, clears the response, so that `WAITDONE` polls again. Both are the model's own:
DESIGN CHOICE, log entry 20. -/
def present (s : State) : State :=
  match s.script with
  | [] => s
  | .txn r :: rest => s.offer r rest
  | .waitDone polled :: rest =>
    if polled && pollSawDone s.response then { s with script := rest }
    else s.offer statusPoll (.waitDone true :: rest)

/-- The outstanding transaction is tried (R150): decoded, and performed where it is an instruction; the
error of its class is raised where it is none (R101, R166, R167). -/
def perform (r : BusReq) (s : State) : Host.Outcome State Fault Refusal :=
  match decode r.word with
  | .ok i => exec i s
  | .error e => .next (s.raiseErr (rejectCode e))

/-- The host's turn (R8, R73): an outstanding transaction is tried, or the next one is presented. -/
def hostTurn (s : State) : Host.Outcome State Fault Refusal :=
  match s.bus with
  | some r => perform r s
  | none => .next (present s)

/-- What the agent whose turn it is does. -/
def turnEffect (t : Turn) (s : State) : Host.Outcome State Fault Refusal :=
  match t with
  | .host => hostTurn s
  | .engine => engineTurn s
  | .reset => .next s.assertReset

/-- Transaction `r` stands at the port and the host's turn comes next (log entry 2). -/
def State.withTransaction (s : State) (r : BusReq) : State :=
  { s with bus := some r, schedule := .host :: s.schedule }

end Sys2Proof.Machine
end

