-- ==== Sys2Proof/Machine/Step.lean ====
section
/-! DEFINITION. One step of the machine: one point of the total order of spec/20_memory.md R73. -/

namespace Sys2Proof.Machine

/-- One step: the agent whose turn it is acts. -/
def step (s : State) : Host.Outcome State Fault Refusal :=
  turnEffect (takeTurn s).1 (takeTurn s).2

/-- The state in which the transaction written as the number `w` is performed by the very next step: it
stands at the port, and the next turn is the host's (log entries 2 and 8). -/
def State.withFetchWord (s : State) (_nbits w : Nat) : State :=
  s.withTransaction (TWord.toReq (tableWord w))

end Sys2Proof.Machine
end

