-- ==== Sys2Proof/Machine/HostSoftware.lean ====
section
/-! DEFINITION. The software around the block: the pseudo-instructions of spec/30_encoding.md R106 as host
scripts, and Seed Acquisition and the Secret Builder of spec/45_host_software.md as plain functions (they
are not hardware, spec/00_scope.md R4; log entry 18). -/

namespace Sys2Proof.Machine

/-- The address of a register in the host's address space (R61, R71): an offset from `BASE`. -/
def hostAddress (offset : BitVec 8) : Nat := Config.base + offset.toNat

/-! ## Seed Acquisition (R228, R229) -/

/-- The two error kinds of the software (R261). -/
inductive HostError where
  /-- `IOError` (R229): the seed file cannot be read. -/
  | ioError
  /-- `RangeError` (R230): the requested length is out of range. -/
  | rangeError
  deriving DecidableEq, Repr

/-- What one reading of a file gives (R229). It is an input of the call, the file as it is on disk at
that moment; nothing is cached and no read is tried twice. -/
inductive FileRead where
  /-- The whole contents. -/
  | contents (bytes : List Byte)
  /-- The file is missing, unreadable, or access is denied: no byte was read. -/
  | notOpened
  /-- The read failed after these bytes. -/
  | brokenOff (readSoFar : List Byte)
  deriving DecidableEq, Repr

/-- `fromText` (R228): the UTF-8 bytes of the text, with nothing added. -/
def fromText (text : String) : List Byte := text.toUTF8.data.toList.map UInt8.toBitVec

/-- `fromFile` (R229): the seed, or `IOError` with no partial result. -/
def fromFile : FileRead → Except HostError (List Byte)
  | .contents bytes => .ok bytes
  | .notOpened => .error .ioError
  | .brokenOff _ => .error .ioError

/-! ## Pseudo-instructions (R106) -/

/-- The pseudo-instructions of R106. -/
inductive Pseudo where
  | init
  | start
  | rewind
  | seedText (text : String)
  /-- `SEEDHEX h0 h1 ...`. R106 does not say that each operand is a byte; that it is any 32-bit write
  value, so that one above `0xFF` expands to a write that ends in `E_BADVAL` (R254), is the model's choice:
  DESIGN CHOICE, log entry 25. -/
  | seedHex (values : List Word32)
  /-- `EXPAND n`, with any 32-bit write value (log entry 25). -/
  | expandBlocks (n : Word32)
  | drain (k : Nat)
  | waitDone
  deriving DecidableEq, Repr

/-- One `WR SEED_DATA` per value, in order (R106). -/
def seedValueWrites (values : List Word32) : List HostAction :=
  values.map (fun v => .txn (encodeReq (.wrSeedData v)))

/-- One `WR SEED_DATA` per byte, in order (R106). -/
def seedWrites (bytes : List Byte) : List HostAction := seedValueWrites (bytes.map zext32)

/-- The expansion of a pseudo-instruction (R106). -/
def Pseudo.expansion : Pseudo → List HostAction
  | .init => [.txn (encodeReq .init)]
  | .start => [.txn (encodeReq .start)]
  | .rewind => [.txn (encodeReq .rewind)]
  | .seedText text => seedWrites (fromText text)
  | .seedHex values => seedValueWrites values
  | .expandBlocks n => [.txn (encodeReq (.wrBlocks n)), .txn (encodeReq .start)]
  | .drain k => List.replicate k (.txn (encodeReq .rdOutData))
  | .waitDone => [.waitDone false]

/-- What the host presents to abandon a seed whose file could not be read to its end (R229). -/
def abandonSeed : List HostAction := Pseudo.expansion .init

/-- What the host presents when it streams a file into `SEED_DATA` while reading it (R229): a write for
each byte as it is read, and, where the read then fails, `INIT`, so that no partial seed is hashed. -/
def streamFile : FileRead → List HostAction
  | .contents bytes => seedWrites bytes
  | .notOpened => []
  | .brokenOff readSoFar => seedWrites readSoFar ++ abandonSeed

/-! ## The Secret Builder (R220 to R227, R230, R231) -/

/-- `sequenceLength` (R221). -/
def sequenceLength (requestedLength : Nat) : Nat :=
  (requestedLength * requestedLength + 63) / 64 * 64

/-- The size of the permutation's index space (R224, R232). -/
abbrev indexSpace : Nat := 65536

/-- The checks `build` makes before any bus transaction (R230). -/
def buildInRange (requestedLength : Nat) : Bool :=
  decide (indexSpace ≤ sequenceLength requestedLength) &&
    decide (sequenceLength requestedLength / 64 < 2 ^ 26)

/-- The transactions of a `build` call that is in range (R222). -/
def buildScript (seed : List Byte) (requestedLength : Nat) : Except HostError (List HostAction) :=
  if buildInRange requestedLength then
    .ok (Pseudo.expansion .init ++ seedWrites seed ++
      Pseudo.expansion (.expandBlocks (BitVec.ofNat 32 (sequenceLength requestedLength / 64))) ++
      Pseudo.expansion (.drain (sequenceLength requestedLength)))
  else .error .rangeError

/-- `substitutionSequence` (R223): each stream byte widened to 16 bits, in order. -/
def substitutionSequence (stream : List Byte) : List (BitVec 16) :=
  stream.map (fun b => b.setWidth 16)

/-- The order of the sort (R225): by value, then by index. A pair is `(index, value)` (R224). -/
abbrev pairLe (p q : Nat × Byte) : Prop :=
  p.2.toNat < q.2.toNat ∨ (p.2.toNat = q.2.toNat ∧ p.1 ≤ q.1)

/-- The indices of a byte string in the order of their `(value, index)` pairs (R225, R226). -/
def sortedIndices (bytes : List Byte) : List Nat :=
  (List.insertionSort pairLe ((List.range bytes.length).zip bytes)).map Prod.fst

/-- `permutationSequence` (R224 to R226): over the first 65536 bytes of the stream. A shorter stream is out
of range (R224), and `build` fails before it would call this (R230); that the function then sorts the bytes
there are is the model's choice: DESIGN CHOICE, log entry 24. -/
def permutationSequence (stream : List Byte) : List Nat :=
  sortedIndices (stream.take indexSpace)

/-- `CipherSecret` (R231): an immutable value that can be compared and hashed. The spec does not say which
hash value it has; it is Lean's derived one, of which nothing is claimed (log entry 18). -/
structure CipherSecret where
  substitution : List (BitVec 16)
  permutation : List Nat
  length : Nat
  deriving DecidableEq, Repr, Hashable

/-- `build` (R220 to R231), with the stream that the block delivers (R190). -/
def build (seed : List Byte) (requestedLength : Nat) : Except HostError CipherSecret :=
  if buildInRange requestedLength then
    let stream := expand seed (sequenceLength requestedLength / 64)
    .ok { substitution := substitutionSequence stream
          permutation := permutationSequence stream
          length := sequenceLength requestedLength }
  else .error .rangeError

/-- `build` on a seed from a file (R229): `IOError` fails the whole call, with no partial result. -/
def buildFromFile (file : FileRead) (requestedLength : Nat) : Except HostError CipherSecret :=
  match fromFile file with
  | .ok seed => build seed requestedLength
  | .error e => .error e

end Sys2Proof.Machine
end

