-- ==== Sys2Proof/Safety.lean ====
section
/-! DEFINITION. What counts as a good state and a good run, in the terms the statements use: the
invariants of spec/10_state.md R26, R32, R35, R39, R44, the correctness invariant of
spec/42_engine_steps.md R200, weak fairness (spec/20_memory.md R73 (e)), and the engine run on its own. -/

namespace Sys2Proof.Machine

/-- The invariants the spec states of every reachable state, but for those that speak of hashed bytes
(`Computes`). -/
structure State.Consistent (s : State) : Prop where
  /-- R26: `WFILL` is at most 128. -/
  wfill_le : s.wfill.toNat ≤ 128
  /-- R26: `WFILL = SEEDLEN mod 128` while the seed is open and the buffer is not full. -/
  wfill_mod : s.phase = .seed → s.wfill.toNat < 128 → s.wfill.toNat = s.seedlen.toNat % 128
  /-- R26: a full buffer means a positive multiple of 128 seed bytes. -/
  wfill_full : s.wfill.toNat = 128 → s.seedlen.toNat % 128 = 0 ∧ 0 < s.seedlen.toNat
  /-- R39 (a): `NBLK = 0` before the first block. -/
  nblk_zero : s.phase = .seed ∨ s.phase = .pad → s.nblk.toNat = 0
  /-- R39 (a), (b): `NBLK` equals its goal exactly in `DONE`, and is then at least 1. -/
  done_iff : s.phase = .done ↔ s.nblk.toNat = s.hashGoal ∧ 1 ≤ s.nblk.toNat
  /-- R39 (c): the chain is under way in `CHAIN`. -/
  chain_lt : s.phase = .chain → 1 ≤ s.nblk.toNat ∧ s.nblk.toNat < s.hashGoal
  /-- R39 (d): the block count is positive once the seed is closed. -/
  blocks_pos : s.phase ≠ .seed → 1 ≤ s.blocks.toNat
  /-- R39 (e): the output position is inside the stream. -/
  outpos_le : s.outpos.toNat ≤ s.streamLength
  /-- R39 (e): nothing has been read before the first block. -/
  outpos_zero : s.phase = .seed ∨ s.phase = .pad → s.outpos.toNat = 0
  /-- R39 (f): nothing has been read that does not exist. -/
  outpos_exists : s.outpos.toNat ≤ 64 * s.nblk.toNat ∨ s.nblk.toNat = 1024
  /-- R39 (g): `PAD80` is set only between the two padding blocks. -/
  pad80_pad : s.pad80 = true → s.phase = .pad ∧ s.wfill.toNat = 0
  /-- R32: every whole pair of Digest Blocks is absorbed, or all but the newest. -/
  nabs_eq : s.phase = .chain ∨ s.phase = .done →
    s.nabs.toNat = s.nblk.toNat / 2 ∨
      (s.nblk.toNat % 2 = 0 ∧ 2 ≤ s.nblk.toNat ∧ s.nabs.toNat + 1 = s.nblk.toNat / 2)
  /-- R35: no code without an error. -/
  errcode_zero : s.err = false → s.errcode = 0
  /-- R251: a recorded code is one of the seven. -/
  errcode_le : s.errcode.toNat ≤ 7
  /-- R44: the bytes of `WBUF` that a step may read have been written. -/
  wbuf_written : ∀ k < s.wfill.toNat, (s.wbuf.read k).isSome
  /-- R44: the bytes of `ACC` that may be read have been written. -/
  acc_written : ∀ a < 64 * s.nblk.toNat, (s.acc.read a).isSome
  /-- The contents of `WBUF` are in canonical form. -/
  wbuf_wf : s.wbuf.wf 128 = true
  /-- The contents of `ACC` are in canonical form. -/
  acc_wf : s.acc.wf 65536 = true

/-- The seed as it stands before any padding has been compressed: a part `old` made of whole message
blocks that `HS` has absorbed, and a part `new` that is in `WBUF` (R200 (d), (e)). -/
def State.HoldsSeed (s : State) (seed : List Byte) : Prop :=
  ∃ old new : List Byte,
    seed = old ++ new ∧ old.length % 128 = 0 ∧ new.length = s.wfill.toNat ∧
      s.hs = absorb iv old ∧ ∀ k < s.wfill.toNat, s.wbuf.read k = new[k]?

/-- The correctness invariant R200 for the seed bytes accepted so far. -/
structure State.Computes (s : State) (seed : List Byte) : Prop where
  /-- R27: `SEEDLEN` counts the seed's bytes. -/
  length_eq : seed.length = s.seedlen.toNat
  /-- R200 (d), (e) while no padding has been compressed. -/
  open_seed : s.phase = .seed ∨ s.phase = .pad ∧ s.pad80 = false → s.HoldsSeed seed
  /-- R200 (d) after `E_PAD1`: `HS` has absorbed the seed, `0x80`, and zeros up to a multiple of 128. -/
  half_padded : s.phase = .pad → s.pad80 = true →
    112 ≤ seed.length % 128 ∧
      s.hs = absorb iv (seed ++ [0x80] ++ zeros (127 - seed.length % 128))
  /-- R200 (a): `ACC` holds the blocks of the chain. -/
  acc_blocks : s.phase = .chain ∨ s.phase = .done →
    ∀ a < 64 * s.nblk.toNat, s.acc.read a = (chainBytes seed s.nblk.toNat)[a]?
  /-- R200 (b): `MS` is the chaining value after `NABS` message blocks of the accumulator. -/
  midstate : s.phase = .chain ∨ s.phase = .done →
    s.ms = absorb iv ((chainBytes seed s.nblk.toNat).take (128 * s.nabs.toNat))

/-- The number of each cause code (R251). -/
def ErrCode.number : ErrCode → Nat
  | .access => 1
  | .badCmd => 2
  | .badVal => 3
  | .seq => 4
  | .badLen => 5
  | .underrun => 6
  | .seedOvf => 7

/-- The state after a transaction that ended in `ERR(c)`, as R255 gives it: the record, the free port,
the error response, and nothing else. -/
def State.ErrorOutcome (s : State) (c : ErrCode) : State :=
  { s with
    err := true
    errcode := if s.err = true then s.errcode else BitVec.ofNat 4 c.number
    bus := none
    response := .err c }

/-- The step that comes next is the host's turn, and it tries the transaction at the port, which decodes to
instruction `i`. -/
def State.triesNext (s : State) (i : Instr) : Prop :=
  (takeTurn s).1 = .host ∧ ∃ r, s.bus = some r ∧ decode r.word = .ok i

/-- Two states agree on everything an engine step reads or writes (R192 to R196). -/
structure SameEngineView (s u : State) : Prop where
  phase : s.phase = u.phase
  pad80 : s.pad80 = u.pad80
  wfill : s.wfill = u.wfill
  seedlen : s.seedlen = u.seedlen
  hs : s.hs = u.hs
  wbuf : s.wbuf = u.wbuf
  ms : s.ms = u.ms
  nblk : s.nblk = u.nblk
  nabs : s.nabs = u.nabs
  acc : s.acc = u.acc
  blocks : s.blocks = u.blocks

/-- Two states agree on everything no engine step writes: the seed's length, the block count, the output
position, the error record, the port, and the inputs of the run. -/
structure SameHostView (s u : State) : Prop where
  seedlen : s.seedlen = u.seedlen
  blocks : s.blocks = u.blocks
  outpos : s.outpos = u.outpos
  err : s.err = u.err
  errcode : s.errcode = u.errcode
  bus : s.bus = u.bus
  response : s.response = u.response
  script : s.script = u.script
  schedule : s.schedule = u.schedule
  turnCount : s.turnCount = u.turnCount

/-- The engine takes `n` turns in a row, with no host action between them. -/
def engineRun : Nat → State → Host.Outcome State Fault Refusal
  | 0, s => .next s
  | n + 1, s =>
    match engineTurn s with
    | .next t => engineRun n t
    | .fault f => .fault f
    | .refused r => .refused r

/-- Reads of `OUT_DATA` and engine steps in any order: on each host turn the read is tried once, on each
engine turn the engine acts. Answers the words that the successful reads returned, in order, and the last
state; nothing where a step stops, or where a reset is asked for. -/
def readRun : List Turn → State → Option (List Word32 × State)
  | [], s => some ([], s)
  | .reset :: _, _ => none
  | .engine :: ts, s =>
    match engineTurn s with
    | .next t => readRun ts t
    | .fault _ => none
    | .refused _ => none
  | .host :: ts, s =>
    match execRdOutData s with
    | .next t =>
      match readRun ts t with
      | some (vs, u) => some (t.response.rdata.toList ++ vs, u)
      | none => none
    | .fault _ => none
    | .refused _ => none

/-- How many seed compressions are still to run once the seed is closed (R204): one block more when
`WBUF` is full or has no room for the length. -/
def seedStepsLeft (s : State) : Nat := if 112 ≤ s.wfill.toNat then 2 else 1

/-- How many chain compressions an expansion takes (R204): `G - 1` blocks and `(G - 1) div 2`
absorptions. -/
def chainSteps (g : Nat) : Nat := (g - 1) + (g - 1) / 2

/-- Weak fairness of the free schedule (R73 (e)): the engine's turn comes again and again. No
definition of the model and no statement assumes it. -/
def FairSchedule : Prop := ∀ n, ∃ m, n ≤ m ∧ Config.freeTurn m = .engine

/-- The run recorded no error (R264). -/
def State.noError (s : State) : Prop := s.err = false

end Sys2Proof.Machine
end

