-- ==== Sys2Proof/Certificates/Slice0/Obligations.lean ====
section
/-! DEFINITION. The statements for the provers. Each docstring names the rules it formalises; where a
clause is the model's own choice it says so and names the log entry. -/

set_option autoImplicit false

open Sys2Proof Sys2Proof.Machine

/-! ## Decoding and encoding -/

/-- Words written out from spec/opcode_table.json and spec/95_test_vectors.md (V100 to V134) decode to the
operations they stand for, and illegal ones to their class (R101). -/
def Obligations.SpecWordsDecode : Prop :=
  decode 0x10000000001 = .ok .init ∧ decode 0x10000000002 = .ok .start ∧
  decode 0x10800000400 = .ok (.wrBlocks 1024) ∧ decode 0x10C00000061 = .ok (.wrSeedData 0x61) ∧
  decode 0x01000000000 = .ok .rdOutData ∧ decode 0x00400000000 = .ok .rdStatus ∧
  decode 0x02400000000 = .ok .rdParam ∧
  decode 0x00500000000 = .error .illegalAccess ∧ decode 0x10000000004 = .error .reservedCommand ∧
  decode 0x10804000000 = .error .reservedValue

/-- Decoding the encoding of a well-formed instruction gives it back, with every operand. -/
def Obligations.DecodeInvertsEncode : Prop :=
  ∀ i : Instr, i.wellFormed = true → decode (encode i) = .ok i

/-- A word that is decoded matches the row of its instruction, is well formed, and its operand is the
word's `DATA` (R91, R103). -/
def Obligations.DecodedWordMatchesItsRow : Prop :=
  ∀ (t : TWord) (i : Instr), decode t = .ok i →
    i.wellFormed = true ∧ MatchesRow t i ∧
    (∀ d, i = .wrBlocks d → d = t.extractLsb' 0 32) ∧
    (∀ d, i = .wrSeedData d → d = t.extractLsb' 0 32)

/-- R104, the decoding procedure, with `ADDR` = bits 39:32 and `W` = bit 40 of the word: misaligned is
class 2 (illegal access); else the row that matches; else a write to `0x00` is class 3 (reserved command), a
write to `0x08` or `0x0C` class 4 (reserved value), and anything else class 2. At most one row matches. -/
def Obligations.DecodingProcedure : Prop :=
  ∀ t : TWord,
    ((t.extractLsb' 32 8).toNat % 4 ≠ 0 → decode t = .error .illegalAccess) ∧
    ((t.extractLsb' 32 8).toNat % 4 = 0 → ∀ i, MatchesRow t i →
      ∃ j, decode t = .ok j ∧ rowMask j = rowMask i ∧ rowMatch j = rowMatch i) ∧
    ((t.extractLsb' 32 8).toNat % 4 = 0 → (∀ i, ¬ MatchesRow t i) →
      (t.getLsbD 40 = true → t.extractLsb' 32 8 = 0x00 → decode t = .error .reservedCommand) ∧
      (t.getLsbD 40 = true → (t.extractLsb' 32 8 = 0x08 ∨ t.extractLsb' 32 8 = 0x0C) →
        decode t = .error .reservedValue) ∧
      ((t.getLsbD 40 = false ∨ (t.extractLsb' 32 8 ≠ 0x00 ∧ t.extractLsb' 32 8 ≠ 0x08 ∧
        t.extractLsb' 32 8 ≠ 0x0C)) → decode t = .error .illegalAccess)) ∧
    ∀ i k, MatchesRow t i → MatchesRow t k → rowMask k = rowMask i ∧ rowMatch k = rowMatch i

/-! ## Transactions that are no instruction -/

/-- R166 and R252: a misaligned or unmapped offset or an illegal direction raises `E_ACCESS` in every
state, whatever `DATA` is. R167 and R253: a write to `CTRL` with another code than 1, 2, 3 raises
`E_BADCMD` in every state. -/
def Obligations.IllegalTransactionsRaiseTheirError : Prop :=
  ∀ (r : BusReq) (s : State),
    ((r.addr.toNat % 4 ≠ 0 ∨ 0x28 ≤ r.addr.toNat ∨
        (r.we = true ∧ (r.addr = 0x04 ∨ r.addr = 0x10 ∨ r.addr = 0x14 ∨ r.addr = 0x18 ∨
          r.addr = 0x1C ∨ r.addr = 0x20 ∨ r.addr = 0x24)) ∨
        (r.we = false ∧ (r.addr = 0x00 ∨ r.addr = 0x0C))) →
      perform r s = .next (s.ErrorOutcome .access)) ∧
    (r.we = true → r.addr = 0x00 → r.wdata ≠ 1 → r.wdata ≠ 2 → r.wdata ≠ 3 →
      perform r s = .next (s.ErrorOutcome .badCmd))

/-- R254: a write to `BLOCKS` with `DATA[31:26] ≠ 0` or to `SEED_DATA` with `DATA[31:8] ≠ 0` raises
`E_BADVAL`, in every phase; so does the operation itself given such an operand (R156, R158). -/
def Obligations.ReservedBitsRaiseBadVal : Prop :=
  (∀ (r : BusReq) (s : State), r.we = true →
    (r.addr = 0x08 ∧ 2 ^ 26 ≤ r.wdata.toNat ∨ r.addr = 0x0C ∧ 2 ^ 8 ≤ r.wdata.toNat) →
    perform r s = .next (s.ErrorOutcome .badVal)) ∧
  (∀ (d : Word32) (s : State), 2 ^ 26 ≤ d.toNat →
    exec (.wrBlocks d) s = .next (s.ErrorOutcome .badVal)) ∧
  (∀ (d : Word32) (s : State), 2 ^ 8 ≤ d.toNat →
    exec (.wrSeedData d) s = .next (s.ErrorOutcome .badVal))

/-! ## The step -/

/-- On the host's turn the transaction at the port is performed: `step` is `exec` of the decoded
instruction, at the state with that turn taken off the schedule. Whose turn it is, the head of the
schedule or else the free schedule's next turn, is the model's own (log entry 1). -/
def Obligations.StepRunsTheDecodedInstruction : Prop :=
  ∀ (s : State) (r : BusReq) (i : Instr), s.bus = some r → decode r.word = .ok i →
    (∀ ts, s.schedule = .host :: ts → step s = exec i { s with schedule := ts }) ∧
    (s.schedule = [] → step s =
      match Config.freeTurn s.turnCount with
      | .host => exec i { s with turnCount := s.turnCount + 1 }
      | .engine => engineTurn { s with turnCount := s.turnCount + 1 }
      | .reset => .next ({ s with turnCount := s.turnCount + 1 } : State).assertReset)

/-- While no transaction is outstanding the host's turn presents the next transaction of its script
(R73 (b)); `WAITDONE` presents `RD STATUS` until a read has returned a word with bit 3 set. The model's own
choices, each marked in its log entry: how the host keeps its script (2); that a transaction is presented on
one turn and tried on another (3); that the response is idle from then on (4); and how `WAITDONE` is one
item of the script that remembers whether it has polled, and presents nothing on the turn that sees bit 3
set (20). -/
def Obligations.HostPresentsItsScriptInOrder : Prop :=
  ∀ (s : State) (ts : List Turn) (rest : List HostAction),
    s.schedule = .host :: ts → s.bus = none →
    (∀ r, s.script = .txn r :: rest →
      step s = .next { s with schedule := ts, bus := some r, response := .idle, script := rest }) ∧
    (∀ v : Word32, s.script = .waitDone true :: rest → s.response = .okRead v →
      step s =
        if v.toNat / 8 % 2 = 1 then .next { s with schedule := ts, script := rest }
        else .next { s with
          schedule := ts, bus := some ⟨false, 0x04, 0⟩, response := .idle
          script := .waitDone true :: rest }) ∧
    (s.script = .waitDone true :: rest → (∀ v : Word32, s.response ≠ .okRead v) →
      step s = .next { s with
        schedule := ts, bus := some ⟨false, 0x04, 0⟩, response := .idle
        script := .waitDone true :: rest }) ∧
    (s.script = .waitDone false :: rest →
      step s = .next { s with
        schedule := ts, bus := some ⟨false, 0x04, 0⟩, response := .idle
        script := .waitDone true :: rest })

/-- R45: while a transaction is outstanding it stays as it is until it completes or a reset discards it,
and the host presents nothing else. That the host's script is a list of the state is the model's choice (log
entry 2), and so is that it stays as it is on a reset turn (log entry 13). -/
def Obligations.OutstandingTransactionIsStable : Prop :=
  ∀ (s t : State) (r : BusReq), s.bus = some r → step s = .next t →
    (t.bus = some r ∨ t.bus = none) ∧ t.script = s.script ∧
    (t.bus = none → (takeTurn s).1 = .reset ∨ ((takeTurn s).1 = .host ∧ t.response.ack = true))

/-- R281, R43: reset gives every register its reset value and discards an outstanding transaction without
a response; `RD STATUS` then returns `0x00000010`. (That `MS` is 0 and the storages list nothing is the
model's choice, log entries 5 and 6, and not part of this statement.) -/
def Obligations.ResetTurnGivesTheResetValues : Prop :=
  ∀ s : State, (takeTurn s).1 = .reset →
    ∃ t, step s = .next t ∧
      t.phase = .seed ∧ t.pad80 = false ∧ t.wfill = 0 ∧ t.seedlen = 0 ∧ t.hs = iv ∧
      t.nblk = 0 ∧ t.nabs = 0 ∧ t.outpos = 0 ∧ t.blocks = 0 ∧ t.err = false ∧ t.errcode = 0 ∧
      t.bus = none ∧ t.response.ack = false ∧
      exec .rdStatus t = .next { t with bus := none, response := .okRead 0x10 }

/-! ## Commands -/

/-- R153: `INIT` is word `0x10000000001`; it raises `E_SEQ` while busy; otherwise it sets the reset values,
leaves `MS`, `WBUF` and `ACC`, completes `OK`, and `STATUS` becomes `0x00000010`; no other instruction
clears `ERR`. -/
def Obligations.InitRule : Prop :=
  (∀ t : TWord, t &&& 0x1FFFFFFFFFF = 0x10000000001 → decode t = .ok .init) ∧
  ∀ s : State,
    (s.phase = .pad ∨ s.phase = .chain → exec .init s = .next (s.ErrorOutcome .seq)) ∧
    (s.phase = .seed ∨ s.phase = .done →
      ∃ t, exec .init s = .next t ∧ t.statusWord = 0x10 ∧
        t = { s with
          phase := .seed, pad80 := false, wfill := 0, seedlen := 0, hs := iv, nblk := 0,
          nabs := 0, outpos := 0, blocks := 0, err := false, errcode := 0, bus := none,
          response := .ok }) ∧
    (∀ (i : Instr) (t : State), exec i s = .next t → s.err = true → t.err = false → i = .init)

/-- R154: `START` is word `0x10000000002`; it raises `E_SEQ` after `START` and `E_BADLEN` with `BLOCKS = 0`;
otherwise `PHASE` becomes `PAD` and nothing else changes, so `BUSY` is 1 and `SEED_RDY` is 0, a full buffer
is compressed next, and the block count and the seed can no longer be written. -/
def Obligations.StartRule : Prop :=
  (∀ t : TWord, t &&& 0x1FFFFFFFFFF = 0x10000000002 → decode t = .ok .start) ∧
  ∀ s : State,
    (s.phase ≠ .seed → exec .start s = .next (s.ErrorOutcome .seq)) ∧
    (s.phase = .seed → s.blocks.toNat = 0 → exec .start s = .next (s.ErrorOutcome .badLen)) ∧
    (s.phase = .seed → s.blocks.toNat ≠ 0 →
      ∃ t, exec .start s = .next t ∧ t = { s with phase := .pad, bus := none, response := .ok } ∧
        t.statusWord.getLsbD 2 = true ∧ t.statusWord.getLsbD 4 = false ∧
        (s.wfill.toNat = 128 → enabledStep t = some .seedBlk) ∧
        (∀ d : Word32, d.toNat < 2 ^ 26 → exec (.wrBlocks d) t = .next (t.ErrorOutcome .seq)) ∧
        (∀ d : Word32, d.toNat < 2 ^ 8 → exec (.wrSeedData d) t = .next (t.ErrorOutcome .seq)))

/-- R155: `REWIND` is word `0x10000000003`; it raises `E_SEQ` before `START`; otherwise `OUTPOS` becomes 0
and nothing else changes; then `OUT_END` and `FALLBACK` are 0 and `OUT_VALID` is 1 if a block exists. -/
def Obligations.RewindRule : Prop :=
  (∀ t : TWord, t &&& 0x1FFFFFFFFFF = 0x10000000003 → decode t = .ok .rewind) ∧
  ∀ s : State,
    (s.phase = .seed → exec .rewind s = .next (s.ErrorOutcome .seq)) ∧
    (s.phase ≠ .seed →
      ∃ t, exec .rewind s = .next t ∧ t = { s with outpos := 0, bus := none, response := .ok } ∧
        (s.Consistent → t.outEnd = false ∧ t.fallbackFlag = false ∧
          (1 ≤ s.nblk.toNat → t.outValid = true) ∧ (s.phase = .pad → t.outpos = s.outpos)))

/-! ## The data ports -/

/-- R156: `WR BLOCKS` matches `0x10800000000 / 0x1FFFC000000`; with `DATA[31:26] = 0` it raises `E_SEQ`
after `START`, and otherwise `BLOCKS` becomes `DATA[25:0]` and nothing else changes; `E_BADVAL` for
`n >= 2^26` comes first. -/
def Obligations.WriteBlocksRule : Prop :=
  (∀ t : TWord, t &&& 0x1FFFC000000 = 0x10800000000 →
    decode t = .ok (.wrBlocks (t.extractLsb' 0 32))) ∧
  ∀ (d : Word32) (s : State),
    (2 ^ 26 ≤ d.toNat → exec (.wrBlocks d) s = .next (s.ErrorOutcome .badVal)) ∧
    (d.toNat < 2 ^ 26 → s.phase ≠ .seed →
      exec (.wrBlocks d) s = .next (s.ErrorOutcome .seq)) ∧
    (d.toNat < 2 ^ 26 → s.phase = .seed →
      ∃ n : BitVec 26, n.toNat = d.toNat ∧
        exec (.wrBlocks d) s = .next { s with blocks := n, bus := none, response := .ok })

/-- R158: `WR SEED_DATA` matches `0x10C00000000 / 0x1FFFFFFFF00`; the checks in their order; the hold
while `WFILL` is 128 or more; otherwise the byte is written at `WBUF[WFILL]`, every other byte of `WBUF`
reads as before, `WFILL` and `SEEDLEN` go up by 1, and nothing else changes. -/
def Obligations.WriteSeedDataRule : Prop :=
  (∀ t : TWord, t &&& 0x1FFFFFFFF00 = 0x10C00000000 →
    decode t = .ok (.wrSeedData (t.extractLsb' 0 32))) ∧
  ∀ (d : Word32) (s : State),
    (2 ^ 8 ≤ d.toNat → exec (.wrSeedData d) s = .next (s.ErrorOutcome .badVal)) ∧
    (d.toNat < 2 ^ 8 → s.phase ≠ .seed →
      exec (.wrSeedData d) s = .next (s.ErrorOutcome .seq)) ∧
    (d.toNat < 2 ^ 8 → s.phase = .seed → s.seedlen.toNat = 2 ^ 64 - 1 →
      exec (.wrSeedData d) s = .next (s.ErrorOutcome .seedOvf)) ∧
    (d.toNat < 2 ^ 8 → s.phase = .seed → s.seedlen.toNat < 2 ^ 64 - 1 → 128 ≤ s.wfill.toNat →
      exec (.wrSeedData d) s = .next { s with response := .held }) ∧
    (d.toNat < 2 ^ 8 → s.phase = .seed → s.seedlen.toNat < 2 ^ 64 - 1 → s.wfill.toNat < 128 →
      ∃ (m : Mem) (b : Byte) (f : BitVec 8) (l : BitVec 64),
        b.toNat = d.toNat ∧ f.toNat = s.wfill.toNat + 1 ∧ l.toNat = s.seedlen.toNat + 1 ∧
        exec (.wrSeedData d) s =
          .next { s with wbuf := m, wfill := f, seedlen := l, bus := none, response := .ok } ∧
        m.read s.wfill.toNat = some b ∧
        (∀ a, a ≠ s.wfill.toNat → m.read a = s.wbuf.read a) ∧
        (f.toNat = 128 →
          ({ s with wbuf := m, wfill := f, seedlen := l } : State).seedRdy = false))

/-- R159: `RD OUT_DATA` matches `0x01000000000 / 0x1FF00000000`; `E_SEQ` before `START`; `E_UNDERRUN` at
the end of the stream; the hold until `OUT_VALID` (R36); then the byte of `ACC` at `OUTPOS`, or at
`OUTPOS mod 256` from 65536 on, is returned, `OUTPOS` goes up by 1, and nothing else changes; a
fallback read is never held. That the cell has been written is a condition of the model (log entry 6); a consistent state meets it. -/
def Obligations.ReadOutDataRule : Prop :=
  (∀ t : TWord, t &&& 0x1FF00000000 = 0x01000000000 → decode t = .ok .rdOutData) ∧
  ∀ s : State,
    (s.phase = .seed → exec .rdOutData s = .next (s.ErrorOutcome .seq)) ∧
    (s.phase ≠ .seed → s.outpos.toNat = 64 * s.blocks.toNat →
      exec .rdOutData s = .next (s.ErrorOutcome .underrun)) ∧
    (s.phase ≠ .seed → s.outpos.toNat ≠ 64 * s.blocks.toNat →
      ¬ ((s.phase = .chain ∨ s.phase = .done) ∧ s.outpos.toNat < 64 * s.blocks.toNat ∧
          (s.outpos.toNat < 64 * s.nblk.toNat ∨ s.nblk.toNat = 1024)) →
      exec .rdOutData s = .next { s with response := .held }) ∧
    (∀ b : Byte, (s.phase = .chain ∨ s.phase = .done) → s.outpos.toNat < 64 * s.blocks.toNat →
      (s.outpos.toNat < 64 * s.nblk.toNat ∨ s.nblk.toNat = 1024) →
      s.acc.read (if s.outpos.toNat < 65536 then s.outpos.toNat else s.outpos.toNat % 256)
        = some b →
      ∃ (v : Word32) (p : BitVec 32), v.toNat = b.toNat ∧ p.toNat = s.outpos.toNat + 1 ∧
        exec .rdOutData s = .next { s with outpos := p, bus := none, response := .okRead v }) ∧
    (s.Consistent → s.phase ≠ .seed → 65536 ≤ s.outpos.toNat →
      s.outpos.toNat ≠ 64 * s.blocks.toNat → s.outValid = true)

/-- Where a byte that would be read has not been written, the model stops with a fault that names the
first such cell: `RD OUT_DATA` (`ACC`), the three steps that read `WBUF` (`E_SEEDBLK`, `E_PAD1`,
`E_SEEDFINAL`), `E_ABSORB` and `E_FINAL` (`ACC`). This is the model's choice (93 U1, log entry 6). From a
consistent state neither an instruction nor the engine stops so (R44). -/
def Obligations.ReadOfAnUnwrittenCellStops : Prop :=
  (∀ (s : State) (a : Nat), (s.phase = .chain ∨ s.phase = .done) →
    s.outpos.toNat < 64 * s.blocks.toNat →
    (s.outpos.toNat < 64 * s.nblk.toNat ∨ s.nblk.toNat = 1024) →
    a = (if s.outpos.toNat < 65536 then s.outpos.toNat else s.outpos.toNat % 256) →
    s.acc.read a = none → exec .rdOutData s = .fault (.unwrittenCell .acc a)) ∧
  (∀ (s : State) (k : Nat),
    (s.phase = .seed ∧ s.wfill.toNat = 128) ∨ (s.phase = .pad ∧ s.wfill.toNat ≤ 128) →
    k < s.wfill.toNat → s.wbuf.read k = none → (∀ j, j < k → (s.wbuf.read j).isSome = true) →
    engineTurn s = .fault (.unwrittenCell .wbuf k)) ∧
  (∀ (s : State) (k : Nat), s.phase = .chain → s.nblk.toNat % 2 = 0 →
    s.nabs.toNat + 1 = s.nblk.toNat / 2 → k < 128 →
    s.acc.read (128 * s.nabs.toNat + k) = none →
    (∀ j, j < k → (s.acc.read (128 * s.nabs.toNat + j)).isSome = true) →
    engineTurn s = .fault (.unwrittenCell .acc (128 * s.nabs.toNat + k))) ∧
  (∀ (s : State) (k : Nat), s.phase = .chain → s.nblk.toNat % 2 = 1 →
    s.nabs.toNat = s.nblk.toNat / 2 → k < 64 →
    s.acc.read (64 * (s.nblk.toNat - 1) + k) = none →
    (∀ j, j < k → (s.acc.read (64 * (s.nblk.toNat - 1) + j)).isSome = true) →
    engineTurn s = .fault (.unwrittenCell .acc (64 * (s.nblk.toNat - 1) + k))) ∧
  ∀ (s : State) (f : Fault), s.Consistent →
    (∀ i, exec i s ≠ .fault f) ∧ engineTurn s ≠ .fault f

/-! ## Registers that are read -/

/-- R157, R161 to R165: each of the six reads matches its row, and in every state completes `OK` with the
register's value, zero-extended, and changes nothing else; `NBLK` is 0 before `E_SEEDFINAL` and never more
than `min(BLOCKS, 1024)`. -/
def Obligations.RegisterReadRules : Prop :=
  (∀ t : TWord,
    (t &&& 0x1FF00000000 = 0x00800000000 → decode t = .ok .rdBlocks) ∧
    (t &&& 0x1FF00000000 = 0x01400000000 → decode t = .ok .rdSeedlenLo) ∧
    (t &&& 0x1FF00000000 = 0x01800000000 → decode t = .ok .rdSeedlenHi) ∧
    (t &&& 0x1FF00000000 = 0x01C00000000 → decode t = .ok .rdNblk) ∧
    (t &&& 0x1FF00000000 = 0x02000000000 → decode t = .ok .rdOutpos) ∧
    (t &&& 0x1FF00000000 = 0x02400000000 → decode t = .ok .rdParam)) ∧
  ∀ s : State,
    (∃ v, exec .rdBlocks s = .next { s with bus := none, response := .okRead v } ∧
      v.toNat = s.blocks.toNat) ∧
    (∃ v, exec .rdSeedlenLo s = .next { s with bus := none, response := .okRead v } ∧
      v.toNat = s.seedlen.toNat % 2 ^ 32) ∧
    (∃ v, exec .rdSeedlenHi s = .next { s with bus := none, response := .okRead v } ∧
      v.toNat = s.seedlen.toNat / 2 ^ 32) ∧
    (∃ v, exec .rdNblk s = .next { s with bus := none, response := .okRead v } ∧
      v.toNat = s.nblk.toNat) ∧
    (∃ v, exec .rdOutpos s = .next { s with bus := none, response := .okRead v } ∧
      v.toNat = s.outpos.toNat) ∧
    exec .rdParam s = .next { s with bus := none, response := .okRead 0x01000400 } ∧
    (s.Consistent → (s.phase = .seed ∨ s.phase = .pad → s.nblk.toNat = 0) ∧
      s.nblk.toNat ≤ min s.blocks.toNat 1024)

/-- R160, R36, R95: `RD STATUS` matches `0x00400000000 / 0x1FF00000000`, and in every state completes `OK`
with the word put together from `PHASE`, the derived flags and the error record, and changes nothing
else. -/
def Obligations.ReadStatusRule : Prop :=
  (∀ t : TWord, t &&& 0x1FF00000000 = 0x00400000000 → decode t = .ok .rdStatus) ∧
  ∀ s : State,
    ∃ v : Word32, exec .rdStatus s = .next { s with bus := none, response := .okRead v } ∧
      v.toNat =
        (match s.phase with | .seed => 0 | .pad => 1 | .chain => 2 | .done => 3)
        + (if s.phase = .pad ∨ s.phase = .chain then 4 else 0)
        + (if s.phase = .done then 8 else 0)
        + (if s.phase = .seed ∧ s.wfill.toNat < 128 then 16 else 0)
        + (if (s.phase = .chain ∨ s.phase = .done) ∧ s.outpos.toNat < 64 * s.blocks.toNat ∧
              (s.outpos.toNat < 64 * s.nblk.toNat ∨ s.nblk.toNat = 1024) then 32 else 0)
        + (if (s.phase = .chain ∨ s.phase = .done) ∧ s.outpos.toNat = 64 * s.blocks.toNat
            then 64 else 0)
        + (if s.err = true then 128 else 0)
        + 256 * s.errcode.toNat
        + (if (s.phase = .chain ∨ s.phase = .done) ∧ 65536 ≤ s.outpos.toNat then 4096 else 0)

/-- The words `STATUS` cannot show (spec/95_test_vectors.md section 4): in a consistent state, not both
`BUSY` and `DONE`, no `SEED_RDY` outside `SEED`, not both `OUT_VALID` and `OUT_END`, no code without
`ERR`, and bits 31:13 are 0; and `OUT_END` implies `DONE` (R36). -/
def Obligations.ImpossibleStatusWords : Prop :=
  ∀ s : State, s.Consistent →
    ¬ (s.statusWord.getLsbD 2 = true ∧ s.statusWord.getLsbD 3 = true) ∧
    (s.statusWord.getLsbD 4 = true → s.statusWord.extractLsb' 0 2 = 0) ∧
    ¬ (s.statusWord.getLsbD 5 = true ∧ s.statusWord.getLsbD 6 = true) ∧
    (s.statusWord.getLsbD 7 = false → s.statusWord.extractLsb' 8 4 = 0) ∧
    s.statusWord.extractLsb' 13 19 = 0 ∧
    (s.statusWord.getLsbD 6 = true → s.statusWord.getLsbD 3 = true)

/-! ## Errors and holds -/

/-- R151, R255: a transaction that ends in `ERR(c)` changes the error record (if it was clear) and
nothing else but the port. -/
def Obligations.ErrorChangesOnlyTheRecord : Prop :=
  ∀ (r : BusReq) (s t : State) (c : ErrCode),
    perform r s = .next t → t.response = .err c → t = s.ErrorOutcome c

/-- R256: exactly which operation raises `E_SEQ` in which phase. -/
def Obligations.SequenceErrorsExactly : Prop :=
  ∀ (i : Instr) (s t : State), i.wellFormed = true → exec i s = .next t →
    (t.response = .err .seq ↔
      (i = .init ∧ (s.phase = .pad ∨ s.phase = .chain)) ∨
      (i = .start ∧ s.phase ≠ .seed) ∨
      (i = .rewind ∧ s.phase = .seed) ∨
      ((∃ d, i = .wrBlocks d) ∧ s.phase ≠ .seed) ∨
      ((∃ d, i = .wrSeedData d) ∧ s.phase ≠ .seed) ∨
      (i = .rdOutData ∧ s.phase = .seed))

/-- R257 to R259: exactly when `E_BADLEN`, `E_UNDERRUN` and `E_SEEDOVF` are raised; after `E_UNDERRUN` the
position has not moved and `REWIND` makes reads legal again; with `E_SEEDOVF` the byte is not accepted. -/
def Obligations.OperandErrorsExactly : Prop :=
  ∀ (i : Instr) (s t : State), i.wellFormed = true → exec i s = .next t →
    (t.response = .err .badLen ↔ i = .start ∧ s.phase = .seed ∧ s.blocks.toNat = 0) ∧
    (t.response = .err .underrun ↔
      i = .rdOutData ∧ s.phase ≠ .seed ∧ s.outpos.toNat = 64 * s.blocks.toNat) ∧
    (t.response = .err .seedOvf ↔
      (∃ d, i = .wrSeedData d) ∧ s.phase = .seed ∧ s.seedlen.toNat = 2 ^ 64 - 1) ∧
    (t.response = .err .underrun → t.outpos = s.outpos ∧ (s.blocks.toNat ≠ 0 →
      ∃ u, exec .rewind t = .next u ∧ u.phase ≠ .seed ∧ u.outpos.toNat ≠ 64 * u.blocks.toNat)) ∧
    (t.response = .err .seedOvf →
      t.wfill = s.wfill ∧ t.seedlen = s.seedlen ∧ ∀ a, t.wbuf.read a = s.wbuf.read a)

/-- R35, R264: once `ERR` is 1, no step changes the record but a reset and a successful `INIT`; and only a
transaction that ends in an error sets it. -/
def Obligations.ErrorRecordIsSticky : Prop :=
  ∀ s t : State, step s = .next t →
    (s.err = true →
      (t.err = true ∧ t.errcode = s.errcode) ∨ (takeTurn s).1 = .reset ∨
      ((takeTurn s).1 = .host ∧ t.response = .ok ∧
        ∃ r, s.bus = some r ∧ decode r.word = .ok .init)) ∧
    (s.err = false → t.err = true →
      (takeTurn s).1 = .host ∧ s.bus.isSome = true ∧
        ∃ c : ErrCode, t.response = .err c ∧ t.errcode.toNat = c.number)

/-- R152: exactly the two operations are held, each under its condition, and a hold changes nothing. -/
def Obligations.HoldsExactly : Prop :=
  ∀ (i : Instr) (s t : State), s.Consistent → i.wellFormed = true → exec i s = .next t →
    (t.response = .held ↔
      ((∃ d, i = .wrSeedData d) ∧ s.phase = .seed ∧ s.wfill.toNat = 128 ∧
        s.seedlen.toNat ≠ 2 ^ 64 - 1) ∨
      (i = .rdOutData ∧ (s.phase = .pad ∨ s.phase = .chain) ∧
        s.outpos.toNat < 64 * s.blocks.toNat ∧ s.outValid = false)) ∧
    (t.response = .held → t = { s with response := .held })

/-- R152: there is no state in which a transaction is held and the engine has no step. -/
def Obligations.HeldMeansEngineHasAStep : Prop :=
  ∀ (i : Instr) (s t : State), s.Consistent → i.wellFormed = true → exec i s = .next t →
    t.response = .held → ∃ e, enabledStep t = some e

/-- R152: a held transaction, tried again after an engine step, is held or ends `OK`; it never ends in an
error. -/
def Obligations.HeldTransactionNeverFails : Prop :=
  ∀ (i : Instr) (s t u w : State), s.Consistent → i.wellFormed = true →
    exec i s = .next t → t.response = .held → engineTurn t = .next u → exec i u = .next w →
    w.response = .held ∨ w.response = .ok ∨ ∃ v, w.response = .okRead v

/-! ## Frames -/

/-- R29, R21, R24, R40: no host operation writes `MS`, `ACC` or `NABS`, `NBLK`, `PAD80` and `HS` but for
`INIT`'s reset values; `WBUF` changes at the one byte `WR SEED_DATA` appends; every other byte of memory
reads as before; and no host operation touches the script or the schedule (the model's own, log entries
1 and 2). -/
def Obligations.HostOperationsFrame : Prop :=
  ∀ (i : Instr) (s t : State), exec i s = .next t →
    t.ms = s.ms ∧ (∀ a, t.acc.read a = s.acc.read a) ∧
    (i ≠ .init → t.hs = s.hs ∧ t.nblk = s.nblk ∧ t.nabs = s.nabs ∧ t.pad80 = s.pad80) ∧
    ((∀ d, i ≠ .wrSeedData d) → ∀ a, t.wbuf.read a = s.wbuf.read a) ∧
    (∀ d, i = .wrSeedData d → ∀ a, a ≠ s.wfill.toNat → t.wbuf.read a = s.wbuf.read a) ∧
    ((∀ d, i ≠ .wrSeedData d) → i ≠ .init → t.wfill = s.wfill ∧ t.seedlen = s.seedlen) ∧
    ((∀ d, i ≠ .wrBlocks d) → i ≠ .init → t.blocks = s.blocks) ∧
    (i ≠ .rdOutData → i ≠ .rewind → i ≠ .init → t.outpos = s.outpos) ∧
    (i ≠ .start → i ≠ .init → t.phase = s.phase) ∧
    (i ≠ .init → (∀ c, t.response ≠ .err c) → t.err = s.err ∧ t.errcode = s.errcode) ∧
    t.script = s.script ∧ t.schedule = s.schedule ∧ t.turnCount = s.turnCount

/-- R30: the only changes of `PHASE`, and what causes each. -/
def Obligations.SequencerTransitions : Prop :=
  ∀ s t : State, step s = .next t → t.phase ≠ s.phase →
    (s.phase = .seed ∧ t.phase = .pad ∧ (takeTurn s).1 = .host ∧
      ∃ r, s.bus = some r ∧ decode r.word = .ok .start) ∨
    (s.phase = .pad ∧ (takeTurn s).1 = .engine ∧ s.wfill.toNat ≤ 111 ∧
      t.phase = (if min s.blocks.toNat 1024 = 1 then .done else .chain)) ∨
    (s.phase = .chain ∧ t.phase = .done ∧ (takeTurn s).1 = .engine ∧
      s.nblk.toNat + 1 = min s.blocks.toNat 1024) ∨
    (t.phase = .seed ∧ (takeTurn s).1 = .reset) ∨
    (s.phase = .done ∧ t.phase = .seed ∧ (takeTurn s).1 = .host ∧
      ∃ r, s.bus = some r ∧ decode r.word = .ok .init)

/-- R76: after `START` no step of either agent changes the seed or the block count, until `INIT` or a
reset opens the seed again. -/
def Obligations.SeedIsImmutableAfterStart : Prop :=
  ∀ s t : State, step s = .next t → s.phase ≠ .seed → t.phase ≠ .seed →
    t.blocks = s.blocks ∧ t.seedlen = s.seedlen ∧ ∀ a, t.wbuf.read a = s.wbuf.read a

/-- R40, R288: within an expansion the bytes of existing blocks never change, `NBLK` and `PHASE` only
increase, and what `OUT_VALID` promises at an output position stays. -/
def Obligations.ExpansionIsMonotone : Prop :=
  ∀ s t : State, s.Consistent → step s = .next t → t.phase ≠ .seed →
    (∀ a, a < 64 * s.nblk.toNat → t.acc.read a = s.acc.read a) ∧
    s.nblk.toNat ≤ t.nblk.toNat ∧ s.phase.code.toNat ≤ t.phase.code.toNat ∧
    (s.outValid = true → t.outpos = s.outpos → t.outValid = true)

/-! ## The engine -/

/-- R192: `E_SEEDBLK` on a full buffer, before or after `START`; it lifts the hold on `WR SEED_DATA`; in
`PAD`, `E_SEEDFINAL` is enabled next. -/
def Obligations.SeedBlockStep : Prop :=
  ∀ (s : State) (b : List Byte), (s.phase = .seed ∨ s.phase = .pad) → s.wfill.toNat = 128 →
    b.length = 128 → (∀ k, k < 128 → s.wbuf.read k = b[k]?) →
    engineTurn s = .next { s with hs := compress s.hs b, wfill := 0 } ∧
    (s.phase = .pad →
      enabledStep { s with hs := compress s.hs b, wfill := 0 } = some .seedFinal) ∧
    (s.phase = .seed → ({ s with hs := compress s.hs b, wfill := 0 } : State).seedRdy = true ∧
      ∀ (d : Word32) (t : State), d.toNat < 2 ^ 8 → s.seedlen.toNat < 2 ^ 64 - 1 →
        exec (.wrSeedData d) { s with hs := compress s.hs b, wfill := 0 } = .next t →
        t.response = .ok)

/-- R193: `E_PAD1` on 112 to 127 buffered bytes; `E_SEEDFINAL` is enabled next; `PAD80` is 0 on entry. -/
def Obligations.FirstPaddingStep : Prop :=
  ∀ (s : State) (w : List Byte), s.phase = .pad → 112 ≤ s.wfill.toNat → s.wfill.toNat ≤ 127 →
    w.length = s.wfill.toNat → (∀ k, k < s.wfill.toNat → s.wbuf.read k = w[k]?) →
    ∃ t, engineTurn s = .next t ∧
      t = { s with
        hs := compress s.hs (w ++ [0x80] ++ List.replicate (127 - s.wfill.toNat) 0)
        wfill := 0
        pad80 := true } ∧
      enabledStep t = some .seedFinal ∧ (s.Consistent → s.pad80 = false)

/-- R194: `E_SEEDFINAL` on at most 111 buffered bytes: `HS` becomes the hash of the seed, its digest
becomes Digest Block 0, every other byte of `ACC` reads as before, and the chain begins or is done; a held
`RD OUT_DATA` is lifted; where the state computes the chain of a seed, Digest Block 0 is the SHA-512 of that
seed. -/
def Obligations.SeedFinalStep : Prop :=
  ∀ (s : State) (w : List Byte), s.phase = .pad → s.wfill.toNat ≤ 111 →
    w.length = s.wfill.toNat → (∀ k, k < s.wfill.toNat → s.wbuf.read k = w[k]?) →
    ∃ (pre : List Byte) (h : Chaining) (m : Mem),
      pre = w ++ (if s.pad80 = true then [] else [0x80]) ∧
      h = compress s.hs
        (pre ++ List.replicate (112 - pre.length) 0 ++ be128 (8 * s.seedlen.toNat)) ∧
      engineTurn s =
        .next { s with
          hs := h, acc := m, nblk := 1, nabs := 0, pad80 := false, wfill := 0, ms := iv
          phase := if min s.blocks.toNat 1024 = 1 then .done else .chain } ∧
      (∀ a, a < 64 → m.read a = (digestBytes h)[a]?) ∧
      (∀ a, 64 ≤ a → m.read a = s.acc.read a) ∧
      (s.Consistent → (s.pad80 = true → s.wfill.toNat = 0) ∧
        (∀ t, engineTurn s = .next t → t.outValid = true) ∧
        ∀ seed, s.Computes seed → ∀ a, a < 64 → m.read a = (sha512 seed)[a]?)

/-- R195: `E_ABSORB` folds the newest pair of Digest Blocks into `MS`; `E_FINAL` is enabled next; it runs at
`NBLK` from 2, where it consumes blocks 0 and 1, to 1022, where it makes `NABS` 511. -/
def Obligations.AbsorbStep : Prop :=
  ∀ (s : State) (b : List Byte), s.phase = .chain → s.nblk.toNat % 2 = 0 →
    s.nabs.toNat + 1 = s.nblk.toNat / 2 →
    b.length = 128 → (∀ k, k < 128 → s.acc.read (128 * s.nabs.toNat + k) = b[k]?) →
    engineTurn s = .next { s with ms := compress s.ms b, nabs := s.nabs + 1 } ∧
    (s.Consistent →
      (s.nabs + 1).toNat = s.nabs.toNat + 1 ∧ 2 ≤ s.nblk.toNat ∧ s.nblk.toNat ≤ 1022 ∧
      (s.nblk.toNat = 2 → s.nabs.toNat = 0) ∧ (s.nblk.toNat = 1022 → (s.nabs + 1).toNat = 511) ∧
      enabledStep { s with ms := compress s.ms b, nabs := s.nabs + 1 } = some .final)

/-- R196: `E_FINAL` writes Digest Block `i = NBLK`: for odd `i` from the Digest Block before it and the
padding, for even `i` from the padding alone, with the length `512 * i`; `MS` is not changed; every byte of
`ACC` outside the block reads as before; `PHASE` becomes `DONE` when the last hashed block is written, and
otherwise `E_ABSORB` or `E_FINAL` is enabled next as `i + 1` is even or odd. Where the state computes the
chain of a seed, the new Digest Block is the SHA-512 of the accumulator so far, the `i` blocks of that
chain. -/
def Obligations.FinalStep : Prop :=
  ∀ (s : State) (d : List Byte), s.phase = .chain → s.nabs.toNat = s.nblk.toNat / 2 →
    (s.nblk.toNat % 2 = 1 → d.length = 64 ∧
      ∀ k, k < 64 → s.acc.read (64 * (s.nblk.toNat - 1) + k) = d[k]?) →
    ∃ (b : List Byte) (m : Mem) (n : BitVec 11) (t : State),
      b = (if s.nblk.toNat % 2 = 1
        then d ++ [0x80] ++ List.replicate 47 0 ++ be128 (512 * s.nblk.toNat)
        else [0x80] ++ List.replicate 111 0 ++ be128 (512 * s.nblk.toNat)) ∧
      n.toNat = s.nblk.toNat + 1 ∧
      t = { s with
        acc := m
        nblk := n
        phase := if s.nblk.toNat + 1 = min s.blocks.toNat 1024 then .done else .chain } ∧
      engineTurn s = .next t ∧
      (∀ k, k < 64 → m.read (64 * s.nblk.toNat + k) = (digestBytes (compress s.ms b))[k]?) ∧
      (∀ a, a < 64 * s.nblk.toNat ∨ 64 * s.nblk.toNat + 64 ≤ a → m.read a = s.acc.read a) ∧
      enabledStep t =
        (if s.nblk.toNat + 1 = min s.blocks.toNat 1024 then none
        else if (s.nblk.toNat + 1) % 2 = 0 then some .absorb else some .final) ∧
      (s.Consistent → ∀ seed, s.Computes seed →
        (∀ a, a < 64 * s.nblk.toNat → s.acc.read a = (chainBytes seed s.nblk.toNat)[a]?) ∧
        ∀ k, k < 64 →
          m.read (64 * s.nblk.toNat + k) = (sha512 (chainBytes seed s.nblk.toNat))[k]?)

/-- R197, R191: never two steps are enabled; one is while the block is busy; none in `DONE`, nor in `SEED`
with room in the buffer. That an engine's turn then is a step that changes nothing is the model's choice
(log entry 16). -/
def Obligations.EngineIsDeterministic : Prop :=
  (∀ (s : State) (e f : EngineStep), e.enabled s = true → f.enabled s = true → e = f) ∧
  (∀ s : State, s.Consistent → s.phase = .pad ∨ s.phase = .chain →
    ∃ e : EngineStep, e.enabled s = true) ∧
  (∀ s : State, s.phase = .done ∨ (s.phase = .seed ∧ s.wfill.toNat < 128) →
    (∀ e : EngineStep, e.enabled s = false) ∧ engineTurn s = .next s)

/-- R73, R155, R255: what an engine step does depends on no output position, error record, port or
schedule, and it writes none of them: from two states that agree on what the engine reads, one engine
turn leads to two states that agree on it. -/
def Obligations.EngineIgnoresTheHostSide : Prop :=
  ∀ s u t : State, SameEngineView s u → engineTurn s = .next t →
    SameHostView t s ∧ ∃ v, engineTurn u = .next v ∧ SameEngineView t v ∧ SameHostView v u

/-- R73: from a consistent state with `OUT_VALID` set, reading the next stream byte and an engine's turn
both succeed, in either order, and commute: the same byte is returned and the same state is reached. That
in `DONE` an engine's turn is a step that changes nothing is the model's choice (log entry 16). -/
def Obligations.OutputReadCommutesWithEngine : Prop :=
  ∀ s : State, s.Consistent → s.outValid = true →
    ∃ (t u w : State) (v : Word32), exec .rdOutData s = .next t ∧ engineTurn s = .next u ∧
      exec .rdOutData u = .next w ∧ engineTurn t = .next w ∧
      t.response = .okRead v ∧ w.response = .okRead v

/-! ## Invariants over every step -/

/-- The machine after reset is consistent: the invariants R26, R32, R35, R39 and R44 hold, and the storages
are in canonical form. -/
def Obligations.ResetIsConsistent : Prop := State.reset.Consistent

/-- Every step of either agent, and reset, keeps the invariants R26, R32, R35, R39 (a) to (g) and R44 and
the canonical form of the storages. -/
def Obligations.EveryStepKeepsConsistent : Prop :=
  ∀ s t : State, s.Consistent → step s = .next t → t.Consistent

/-- R44: from a consistent state no step reads an unwritten cell or an address that does not exist, and
none is refused: every step, of whichever agent, gives a next state. That a host's turn with nothing to
present and an engine's turn with no enabled step are steps that change nothing, and so give a next state,
is the model's choice (log entries 2 and 16). -/
def Obligations.ConsistentStatesNeverStop : Prop :=
  ∀ s : State, s.Consistent → ∃ t, step s = .next t

/-- R200 at reset: the machine computes the hash chain of the empty seed. -/
def Obligations.ResetComputesEmptySeed : Prop := State.reset.Computes []

/-- R200: the correctness invariant. If the state computes the chain of a seed, then after any step it
computes the chain of a seed again: of the empty one after a reset turn or an `INIT` that ends `OK`; of the
seed with the written byte appended after a `WR SEED_DATA` that ends `OK`; of the same seed after every
other step. -/
def Obligations.EveryStepKeepsComputes : Prop :=
  ∀ (s t : State) (seed : List Byte), s.Consistent → s.Computes seed → step s = .next t →
    ((takeTurn s).1 = .reset ∨ (s.triesNext .init ∧ t.response = .ok) → t.Computes []) ∧
    (∀ d : Word32, s.triesNext (.wrSeedData d) → t.response = .ok →
      ∃ b : Byte, b.toNat = d.toNat ∧ t.Computes (seed ++ [b])) ∧
    ((takeTurn s).1 ≠ .reset → ¬ (s.triesNext .init ∧ t.response = .ok) →
      (∀ d : Word32, ¬ (s.triesNext (.wrSeedData d) ∧ t.response = .ok)) → t.Computes seed)

/-- R201, R199: in a state that computes the chain of a seed, a read of `OUT_DATA` that is not held returns
the byte of `expand(seed, 64*BLOCKS)` at `OUTPOS`, in the hash regime and in the fallback regime. -/
def Obligations.OutDataReturnsTheExpandedStream : Prop :=
  ∀ (s : State) (seed : List Byte), s.Consistent → s.Computes seed → s.outValid = true →
    ∃ (b : Byte) (v : Word32) (p : BitVec 32),
      (expand seed s.blocks.toNat)[s.outpos.toNat]? = some b ∧ v.toNat = b.toNat ∧
      p.toNat = s.outpos.toNat + 1 ∧
      exec .rdOutData s = .next { s with outpos := p, bus := none, response := .okRead v }

/-- R201, R203, R152, over every interleaving: from a state in which the seed is closed, whatever the order
of engine steps and tries of `RD OUT_DATA`, no step stops, and the words the successful reads return are
the bytes of `expand(seed, 64*BLOCKS)` from `OUTPOS` on, in order, none left out. That an engine's turn in
`DONE` is a step that changes nothing, and so no stop, is the model's choice (log entry 16). -/
def Obligations.InterleavedReadsReturnTheStream : Prop :=
  ∀ (s : State) (seed : List Byte) (ts : List Turn), s.Consistent → s.Computes seed →
    s.phase ≠ .seed → Turn.reset ∉ ts →
    ∃ (vs : List Word32) (t : State), readRun ts s = some (vs, t) ∧
      vs.map BitVec.toNat =
        (((expand seed s.blocks.toNat).drop s.outpos.toNat).take vs.length).map BitVec.toNat ∧
      t.outpos.toNat = s.outpos.toNat + vs.length ∧ t.outpos.toNat ≤ 64 * s.blocks.toNat

/-- R204: once the seed is closed the engine, left to itself, reaches `DONE` after exactly one or two seed
compressions and `(G - 1) + (G - 1) div 2` chain compressions, `G = min(BLOCKS, 1024)`, and not before. -/
def Obligations.EngineReachesDone : Prop :=
  ∀ s : State, s.Consistent → s.phase = .pad →
    (∃ t, engineRun (seedStepsLeft s + chainSteps (min s.blocks.toNat 1024)) s = .next t ∧
      t.phase = .done) ∧
    ∀ k u, k < seedStepsLeft s + chainSteps (min s.blocks.toNat 1024) →
      engineRun k s = .next u → u.phase ≠ .done

/-! ## The hash and the stream -/

/-- R120 to R126, R129, R133, R135: the worked values. -/
def Obligations.WorkedHashValues : Prop :=
  rotr 1 0x0123456789ABCDEF = 0x8091A2B3C4D5E6F7 ∧
  rotr 8 0x0123456789ABCDEF = 0xEF0123456789ABCD ∧
  ch 0x0123456789ABCDEF 0xFEDCBA9876543210 0x0F0F0F0F0F0F0F0F = 0x0E0C0A0806040200 ∧
  maj 0x0123456789ABCDEF 0xFEDCBA9876543210 0x0F0F0F0F0F0F0F0F = 0x0F0F0F0F0F0F0F0F ∧
  bsig0 0x0123456789ABCDEF = 0xB7C57A100C7EC1AB ∧
  bsig1 0x0123456789ABCDEF = 0x7703112333475567 ∧
  ssig0 0x0123456789ABCDEF = 0x6F92C77C6C4F1AA1 ∧
  ssig1 0x0123456789ABCDEF = 0x70A3460DBBD4317A ∧
  (messageSchedule (pad [0x61, 0x62, 0x63]))[79]? = some 0x92AEEED1A7BCF7D2 ∧
  compress iv (pad [0x61, 0x62, 0x63]) =
    { h0 := 0xDDAF35A193617ABA, h1 := 0xCC417349AE204131, h2 := 0x12E6FA4E89A97EA2
      h3 := 0x0A9EEEE64B55D39A, h4 := 0x2192992A274FC1A8, h5 := 0x36BA3C23A3FEEBBD
      h6 := 0x454D4423643CE80E, h7 := 0x2A9AC94FA54CA49F } ∧
  sha512 [] = digestBytes
    { h0 := 0xcf83e1357eefb8bd, h1 := 0xf1542850d66d8007, h2 := 0xd620e4050b5715dc
      h3 := 0x83f4a921d36ce9ce, h4 := 0x47d0d13c5d85f2b0, h5 := 0xff8318d2877eec2f
      h6 := 0x63b931bd47417a81, h7 := 0xa538327af927da3e }

/-- R129: the message schedule has 80 words; the first sixteen are the words of the block, and each later
one is made from the words 2, 7, 15 and 16 places before it. -/
def Obligations.MessageScheduleRecurrence : Prop :=
  ∀ b : List Byte,
    (messageSchedule b).length = 80 ∧
    (∀ t, t < 16 → (messageSchedule b)[t]? = some (wordBe b t)) ∧
    ∀ t, 16 ≤ t → t < 80 → ∃ w2 w7 w15 w16 : Word64,
      (messageSchedule b)[t - 2]? = some w2 ∧ (messageSchedule b)[t - 7]? = some w7 ∧
      (messageSchedule b)[t - 15]? = some w15 ∧ (messageSchedule b)[t - 16]? = some w16 ∧
      (messageSchedule b)[t]? = some (ssig1 w2 + w7 + ssig0 w15 + w16)

/-- R132, R135: the hash cuts the padded message into message blocks of 128 bytes and compresses them in
order from `IV`. -/
def Obligations.HashIsTheFoldOverMessageBlocks : Prop :=
  ∀ m : List Byte,
    sha512 m = digestBytes ((List.range ((m.length + 17 + 127) / 128)).foldl
      (fun c q => compress c (((pad m).drop (128 * q)).take 128)) iv)

/-- R131: the padding and its length. -/
def Obligations.PaddingLength : Prop :=
  ∀ m : List Byte,
    pad m = m ++ [0x80] ++ List.replicate ((111 - (m.length : Int)) % 128).toNat 0
      ++ be128 (8 * m.length) ∧
    (pad m).length = 128 * ((m.length + 17 + 127) / 128) ∧
    (m.length % 128 ≤ 111 → (pad m).length = 128 * (m.length / 128 + 1)) ∧
    (112 ≤ m.length % 128 → (pad m).length = 128 * (m.length / 128 + 2))

/-- R136: the prefix law. -/
def Obligations.PrefixLaw : Prop :=
  ∀ u v : List Byte, u.length % 128 = 0 →
    sha512 (u ++ v) =
      digestBytes (absorb (absorb iv u)
        (v ++ [0x80] ++ List.replicate ((111 - (v.length : Int)) % 128).toNat 0
          ++ be128 (8 * (u ++ v).length)))

/-- R190: `expand` is the hash chain with cap and fallback: its length; block 0 is the hash of the seed;
block `i` is the hash of everything before it; from 65536 on byte `p` is byte `p mod 256`, so block `j`
equals block `j mod 4`. -/
def Obligations.ExpandIsTheHashChain : Prop :=
  ∀ (seed : List Byte) (n : Nat), 1 ≤ n →
    (expand seed n).length = 64 * n ∧
    (expand seed n).take 64 = sha512 seed ∧
    (∀ i, 1 ≤ i → i < min n 1024 →
      ((expand seed n).drop (64 * i)).take 64 = sha512 ((expand seed n).take (64 * i))) ∧
    (∀ p, 65536 ≤ p → p < 64 * n → (expand seed n)[p]? = (expand seed n)[p % 256]?) ∧
    (∀ j, 1024 ≤ j → j < n → ((expand seed n).drop (64 * j)).take 64
      = ((expand seed n).drop (64 * (j % 4))).take 64)

/-- R202: prefix stability, of the function and of the output port: two states that compute the chain of
one seed return the same word at one output position, whatever their block counts are. -/
def Obligations.ExpandPrefixStability : Prop :=
  (∀ (seed : List Byte) (k n : Nat), 1 ≤ k → k ≤ n →
    (expand seed n).take (64 * k) = expand seed k) ∧
  ∀ (s u : State) (seed : List Byte), s.Consistent → u.Consistent → s.Computes seed →
    u.Computes seed → s.outValid = true → u.outValid = true → s.outpos = u.outpos →
    ∃ (v : Word32) (p : BitVec 32),
      exec .rdOutData s = .next { s with outpos := p, bus := none, response := .okRead v } ∧
      exec .rdOutData u = .next { u with outpos := p, bus := none, response := .okRead v }

/-! ## The software around the block -/

/-- R221: `sequenceLength` is the smallest multiple of 64 at least as large as the square of the requested
length. -/
def Obligations.SequenceLengthFormula : Prop :=
  ∀ r : Nat, sequenceLength r = (r * r + 63) / 64 * 64 ∧
    64 ∣ sequenceLength r ∧ r ^ 2 ≤ sequenceLength r ∧
    ∀ m, 64 ∣ m → r ^ 2 ≤ m → sequenceLength r ≤ m

/-- R224 to R227: the permutation sequence is a permutation of 0 to 65535, in the order of
`(value, index)`. -/
def Obligations.PermutationIsASortedBijection : Prop :=
  ∀ stream : List Byte, 65536 ≤ stream.length →
    (permutationSequence stream).Perm (List.range 65536) ∧
    (permutationSequence stream).Pairwise (fun i j =>
      (stream.getD i 0).toNat < (stream.getD j 0).toNat ∨
        (stream.getD i 0 = stream.getD j 0 ∧ i < j))

/-- R230: `build` fails with `RangeError` exactly for a requested length of at most 255 or at least 65536,
before any transaction; otherwise it succeeds, and returns (R223, R224, R231) the bytes of the expanded
stream, widened and in order, the permutation of the same stream, and the sequence length. -/
def Obligations.BuildRangeErrors : Prop :=
  ∀ (seed : List Byte) (r : Nat),
    (r ≤ 255 ∨ 65536 ≤ r →
      build seed r = .error .rangeError ∧ buildScript seed r = .error .rangeError) ∧
    (256 ≤ r → r ≤ 65535 →
      (∃ (c : CipherSecret) (stream : List Byte), build seed r = .ok c ∧
        stream = expand seed (sequenceLength r / 64) ∧
        c.substitution.map BitVec.toNat = stream.map BitVec.toNat ∧
        c.substitution.length = sequenceLength r ∧ c.permutation = permutationSequence stream ∧
        c.permutation.Perm (List.range 65536) ∧ c.length = sequenceLength r) ∧
      ∃ l, buildScript seed r = .ok l)

/-- R229: a file that is streamed into `SEED_DATA` while it is read. Where the read succeeds, the
transactions are one `WR SEED_DATA` per byte, in order; where it fails after some bytes, these are followed
by `INIT`; where the file cannot be opened there are none. Both failures are `IOError`, of `fromFile` and
of the whole `build` call, with no partial result. In `SEED`, where the host then stands, that `INIT` is
legal and leaves a state that computes the chain of the empty seed: no partial seed is hashed. -/
def Obligations.FailedFileReadAbandonsTheSeed : Prop :=
  (∀ (bs : List Byte) (f : FileRead), f = .contents bs ∨ f = .brokenOff bs →
    ∃ (l : List BusReq) (ds : List Word32), streamFile f = l.map HostAction.txn ∧
      ds.map BitVec.toNat = bs.map BitVec.toNat ∧
      l.map (fun q => decode q.word) =
        (ds.map Instr.wrSeedData ++ (if f = .contents bs then [] else [Instr.init])).map Except.ok) ∧
  streamFile .notOpened = [] ∧
  (∀ (f : FileRead) (r : Nat),
    (∀ bs, f = .contents bs → fromFile f = .ok bs ∧ buildFromFile f r = build bs r) ∧
    ((∀ bs, f ≠ .contents bs) →
      fromFile f = .error .ioError ∧ buildFromFile f r = .error .ioError)) ∧
  ∀ s : State, s.phase = .seed →
    ∃ t, exec .init s = .next t ∧ t.response = .ok ∧ t.phase = .seed ∧ t.Computes []

/-- R222, R106: the transactions of a `build` call that is in range: `INIT`; one `WR SEED_DATA` per seed
byte, in order; `WR BLOCKS` with the block count; `START`; one `RD OUT_DATA` per byte of the stream. The
block count can be written exactly for lengths of 1 to 65535. -/
def Obligations.BuildIssuesTheTransactions : Prop :=
  (∀ r : Nat, (1 ≤ sequenceLength r / 64 ∧ sequenceLength r / 64 ≤ 2 ^ 26 - 1) ↔
    (1 ≤ r ∧ r ≤ 65535)) ∧
  ∀ (seed : List Byte) (r : Nat), 256 ≤ r → r ≤ 65535 →
    ∃ (l : List BusReq) (n : Word32) (ds : List Word32),
      buildScript seed r = .ok (l.map HostAction.txn) ∧
      n.toNat = sequenceLength r / 64 ∧ ds.map BitVec.toNat = seed.map BitVec.toNat ∧
      l.map (fun q => decode q.word) =
        ([Instr.init] ++ ds.map Instr.wrSeedData ++ [Instr.wrBlocks n, Instr.start] ++
          List.replicate (sequenceLength r) Instr.rdOutData).map Except.ok
end

