-- ==== Sys2Proof/Laws/Encoding.lean ====
section
/-! SUPPORT. The transaction word and its fields (spec/30_encoding.md R91): each determines the other, and
what the decoder does with the word of a transaction. -/

namespace Sys2Proof

@[simp] theorem BusReq.w_word (r : BusReq) : TWord.w r.word = r.we := by
  unfold TWord.w BusReq.word
  rw [BitVec.getLsbD_append, BitVec.getLsbD_append]
  simp

@[simp] theorem BusReq.addr_word (r : BusReq) : TWord.addr r.word = r.addr := by
  unfold TWord.addr BusReq.word
  apply BitVec.eq_of_getLsbD_eq
  intro i hi
  rw [BitVec.getLsbD_extractLsb', BitVec.getLsbD_append, BitVec.getLsbD_append]
  simp [hi]

@[simp] theorem BusReq.data_word (r : BusReq) : TWord.data r.word = r.wdata := by
  unfold TWord.data BusReq.word
  apply BitVec.eq_of_getLsbD_eq
  intro i hi
  rw [BitVec.getLsbD_extractLsb', BitVec.getLsbD_append, BitVec.getLsbD_append]
  simp [hi]

@[simp] theorem BusReq.toReq_word (r : BusReq) : TWord.toReq r.word = r := by
  simp [TWord.toReq]

@[simp] theorem TWord.word_toReq (t : TWord) : (TWord.toReq t).word = t := by
  apply BitVec.eq_of_getLsbD_eq
  intro i hi
  unfold TWord.toReq BusReq.word TWord.w TWord.addr TWord.data
  rw [BitVec.getLsbD_append, BitVec.getLsbD_append]
  by_cases h : i < 32
  · simp [h]
  · by_cases h2 : i - 32 < 8
    · simp [h, h2, show 32 + (i - 32) = i by omega]
    · have : i = 40 := by omega
      subst this
      simp

/-- The fields of a masked word are the masked fields (R91). -/
theorem TWord.w_and (t m : TWord) : TWord.w (t &&& m) = (TWord.w t && TWord.w m) := by
  unfold TWord.w
  exact BitVec.getLsbD_and

theorem TWord.addr_and (t m : TWord) : TWord.addr (t &&& m) = TWord.addr t &&& TWord.addr m := by
  unfold TWord.addr
  apply BitVec.eq_of_getLsbD_eq
  intro i hi
  simp [hi]

theorem TWord.data_and (t m : TWord) : TWord.data (t &&& m) = TWord.data t &&& TWord.data m := by
  unfold TWord.data
  apply BitVec.eq_of_getLsbD_eq
  intro i hi
  simp [hi]

/-- The decoder on the word of a transaction (R104). -/
theorem decode_word (r : BusReq) :
    decode r.word =
      if r.addr.extractLsb' 0 2 ≠ 0 then .error .illegalAccess
      else if r.we then decodeWrite r.addr r.wdata
      else decodeRead r.addr := by
  unfold decode
  rw [BusReq.w_word, BusReq.addr_word, BusReq.data_word]

/-- Every word is the word of a transaction, so a fact about all words is one about all
transactions. -/
theorem forall_word {p : TWord → Prop} (h : ∀ r : BusReq, p r.word) (t : TWord) : p t := by
  rw [← TWord.word_toReq t]
  exact h _

/-- The upper bits of a `BLOCKS` write are 0 exactly for values below `2^26` (R96). -/
theorem blocksDataLegal_iff (d : Word32) : blocksDataLegal d = true ↔ d.toNat < 2 ^ 26 := by
  unfold blocksDataLegal
  rw [beq_iff_eq, ← BitVec.toNat_inj]
  simp only [BitVec.extractLsb'_toNat, Nat.shiftRight_eq_div_pow]
  have := d.isLt
  constructor
  · intro h
    have h' : d.toNat / 2 ^ 26 % 2 ^ 6 = 0 := h
    omega
  · intro h
    show d.toNat / 2 ^ 26 % 2 ^ 6 = 0
    omega

/-- The upper bits of a `SEED_DATA` write are 0 exactly for values below `2^8` (R97). -/
theorem seedDataLegal_iff (d : Word32) : seedDataLegal d = true ↔ d.toNat < 2 ^ 8 := by
  unfold seedDataLegal
  rw [beq_iff_eq, ← BitVec.toNat_inj]
  simp only [BitVec.extractLsb'_toNat, Nat.shiftRight_eq_div_pow]
  have := d.isLt
  constructor
  · intro h
    have h' : d.toNat / 2 ^ 8 % 2 ^ 24 = 0 := h
    omega
  · intro h
    show d.toNat / 2 ^ 8 % 2 ^ 24 = 0
    omega

end Sys2Proof
end

