-- ==== Sys2Proof/Laws/State.lean ====
section
/-! SUPPORT. One lemma per field of the state per shared update, each true by unfolding, so that no later
proof unfolds a record update. -/

namespace Sys2Proof.Machine

variable (s : State)


/-! ## `State.complete` -/

@[simp] theorem State.complete_phase (r : Response) : (s.complete r).phase = s.phase := rfl
@[simp] theorem State.complete_pad80 (r : Response) : (s.complete r).pad80 = s.pad80 := rfl
@[simp] theorem State.complete_wfill (r : Response) : (s.complete r).wfill = s.wfill := rfl
@[simp] theorem State.complete_seedlen (r : Response) : (s.complete r).seedlen = s.seedlen := rfl
@[simp] theorem State.complete_hs (r : Response) : (s.complete r).hs = s.hs := rfl
@[simp] theorem State.complete_wbuf (r : Response) : (s.complete r).wbuf = s.wbuf := rfl
@[simp] theorem State.complete_ms (r : Response) : (s.complete r).ms = s.ms := rfl
@[simp] theorem State.complete_nblk (r : Response) : (s.complete r).nblk = s.nblk := rfl
@[simp] theorem State.complete_nabs (r : Response) : (s.complete r).nabs = s.nabs := rfl
@[simp] theorem State.complete_acc (r : Response) : (s.complete r).acc = s.acc := rfl
@[simp] theorem State.complete_blocks (r : Response) : (s.complete r).blocks = s.blocks := rfl
@[simp] theorem State.complete_outpos (r : Response) : (s.complete r).outpos = s.outpos := rfl
@[simp] theorem State.complete_err (r : Response) : (s.complete r).err = s.err := rfl
@[simp] theorem State.complete_errcode (r : Response) : (s.complete r).errcode = s.errcode := rfl
@[simp] theorem State.complete_bus (r : Response) : (s.complete r).bus = none := rfl
@[simp] theorem State.complete_response (r : Response) : (s.complete r).response = r := rfl
@[simp] theorem State.complete_script (r : Response) : (s.complete r).script = s.script := rfl
@[simp] theorem State.complete_schedule (r : Response) : (s.complete r).schedule = s.schedule := rfl
@[simp] theorem State.complete_turnCount (r : Response) :
    (s.complete r).turnCount = s.turnCount := rfl

/-! ## `State.hold` -/

@[simp] theorem State.hold_phase : s.hold.phase = s.phase := rfl
@[simp] theorem State.hold_pad80 : s.hold.pad80 = s.pad80 := rfl
@[simp] theorem State.hold_wfill : s.hold.wfill = s.wfill := rfl
@[simp] theorem State.hold_seedlen : s.hold.seedlen = s.seedlen := rfl
@[simp] theorem State.hold_hs : s.hold.hs = s.hs := rfl
@[simp] theorem State.hold_wbuf : s.hold.wbuf = s.wbuf := rfl
@[simp] theorem State.hold_ms : s.hold.ms = s.ms := rfl
@[simp] theorem State.hold_nblk : s.hold.nblk = s.nblk := rfl
@[simp] theorem State.hold_nabs : s.hold.nabs = s.nabs := rfl
@[simp] theorem State.hold_acc : s.hold.acc = s.acc := rfl
@[simp] theorem State.hold_blocks : s.hold.blocks = s.blocks := rfl
@[simp] theorem State.hold_outpos : s.hold.outpos = s.outpos := rfl
@[simp] theorem State.hold_err : s.hold.err = s.err := rfl
@[simp] theorem State.hold_errcode : s.hold.errcode = s.errcode := rfl
@[simp] theorem State.hold_bus : s.hold.bus = s.bus := rfl
@[simp] theorem State.hold_response : s.hold.response = .held := rfl
@[simp] theorem State.hold_script : s.hold.script = s.script := rfl
@[simp] theorem State.hold_schedule : s.hold.schedule = s.schedule := rfl
@[simp] theorem State.hold_turnCount : s.hold.turnCount = s.turnCount := rfl

/-! ## `State.raiseErr` -/

@[simp] theorem State.raiseErr_phase (c : ErrCode) : (s.raiseErr c).phase = s.phase := rfl
@[simp] theorem State.raiseErr_pad80 (c : ErrCode) : (s.raiseErr c).pad80 = s.pad80 := rfl
@[simp] theorem State.raiseErr_wfill (c : ErrCode) : (s.raiseErr c).wfill = s.wfill := rfl
@[simp] theorem State.raiseErr_seedlen (c : ErrCode) : (s.raiseErr c).seedlen = s.seedlen := rfl
@[simp] theorem State.raiseErr_hs (c : ErrCode) : (s.raiseErr c).hs = s.hs := rfl
@[simp] theorem State.raiseErr_wbuf (c : ErrCode) : (s.raiseErr c).wbuf = s.wbuf := rfl
@[simp] theorem State.raiseErr_ms (c : ErrCode) : (s.raiseErr c).ms = s.ms := rfl
@[simp] theorem State.raiseErr_nblk (c : ErrCode) : (s.raiseErr c).nblk = s.nblk := rfl
@[simp] theorem State.raiseErr_nabs (c : ErrCode) : (s.raiseErr c).nabs = s.nabs := rfl
@[simp] theorem State.raiseErr_acc (c : ErrCode) : (s.raiseErr c).acc = s.acc := rfl
@[simp] theorem State.raiseErr_blocks (c : ErrCode) : (s.raiseErr c).blocks = s.blocks := rfl
@[simp] theorem State.raiseErr_outpos (c : ErrCode) : (s.raiseErr c).outpos = s.outpos := rfl
@[simp] theorem State.raiseErr_err (c : ErrCode) : (s.raiseErr c).err = true := rfl
@[simp] theorem State.raiseErr_errcode (c : ErrCode) :
    (s.raiseErr c).errcode = if s.err then s.errcode else c.code := rfl
@[simp] theorem State.raiseErr_bus (c : ErrCode) : (s.raiseErr c).bus = none := rfl
@[simp] theorem State.raiseErr_response (c : ErrCode) : (s.raiseErr c).response = .err c := rfl
@[simp] theorem State.raiseErr_script (c : ErrCode) : (s.raiseErr c).script = s.script := rfl
@[simp] theorem State.raiseErr_schedule (c : ErrCode) : (s.raiseErr c).schedule = s.schedule := rfl
@[simp] theorem State.raiseErr_turnCount (c : ErrCode) :
    (s.raiseErr c).turnCount = s.turnCount := rfl

/-! ## `State.newExpansion` -/

@[simp] theorem State.newExpansion_phase : s.newExpansion.phase = .seed := rfl
@[simp] theorem State.newExpansion_pad80 : s.newExpansion.pad80 = false := rfl
@[simp] theorem State.newExpansion_wfill : s.newExpansion.wfill = 0 := rfl
@[simp] theorem State.newExpansion_seedlen : s.newExpansion.seedlen = 0 := rfl
@[simp] theorem State.newExpansion_hs : s.newExpansion.hs = iv := rfl
@[simp] theorem State.newExpansion_wbuf : s.newExpansion.wbuf = s.wbuf := rfl
@[simp] theorem State.newExpansion_ms : s.newExpansion.ms = s.ms := rfl
@[simp] theorem State.newExpansion_nblk : s.newExpansion.nblk = 0 := rfl
@[simp] theorem State.newExpansion_nabs : s.newExpansion.nabs = 0 := rfl
@[simp] theorem State.newExpansion_acc : s.newExpansion.acc = s.acc := rfl
@[simp] theorem State.newExpansion_blocks : s.newExpansion.blocks = 0 := rfl
@[simp] theorem State.newExpansion_outpos : s.newExpansion.outpos = 0 := rfl
@[simp] theorem State.newExpansion_err : s.newExpansion.err = false := rfl
@[simp] theorem State.newExpansion_errcode : s.newExpansion.errcode = 0 := rfl
@[simp] theorem State.newExpansion_bus : s.newExpansion.bus = s.bus := rfl
@[simp] theorem State.newExpansion_response : s.newExpansion.response = s.response := rfl
@[simp] theorem State.newExpansion_script : s.newExpansion.script = s.script := rfl
@[simp] theorem State.newExpansion_schedule : s.newExpansion.schedule = s.schedule := rfl
@[simp] theorem State.newExpansion_turnCount : s.newExpansion.turnCount = s.turnCount := rfl

/-! ## `State.assertReset` -/

@[simp] theorem State.assertReset_phase : s.assertReset.phase = .seed := rfl
@[simp] theorem State.assertReset_pad80 : s.assertReset.pad80 = false := rfl
@[simp] theorem State.assertReset_wfill : s.assertReset.wfill = 0 := rfl
@[simp] theorem State.assertReset_seedlen : s.assertReset.seedlen = 0 := rfl
@[simp] theorem State.assertReset_hs : s.assertReset.hs = iv := rfl
@[simp] theorem State.assertReset_wbuf : s.assertReset.wbuf = [] := rfl
@[simp] theorem State.assertReset_ms : s.assertReset.ms = Chaining.atReset := rfl
@[simp] theorem State.assertReset_nblk : s.assertReset.nblk = 0 := rfl
@[simp] theorem State.assertReset_nabs : s.assertReset.nabs = 0 := rfl
@[simp] theorem State.assertReset_acc : s.assertReset.acc = [] := rfl
@[simp] theorem State.assertReset_blocks : s.assertReset.blocks = 0 := rfl
@[simp] theorem State.assertReset_outpos : s.assertReset.outpos = 0 := rfl
@[simp] theorem State.assertReset_err : s.assertReset.err = false := rfl
@[simp] theorem State.assertReset_errcode : s.assertReset.errcode = 0 := rfl
@[simp] theorem State.assertReset_bus : s.assertReset.bus = none := rfl
@[simp] theorem State.assertReset_response : s.assertReset.response = .idle := rfl
@[simp] theorem State.assertReset_script : s.assertReset.script = s.script := rfl
@[simp] theorem State.assertReset_schedule : s.assertReset.schedule = s.schedule := rfl
@[simp] theorem State.assertReset_turnCount : s.assertReset.turnCount = s.turnCount := rfl

/-! ## `State.setMem` on acc -/

@[simp] theorem State.setMem_acc_phase (m : Mem) : (s.setMem .acc m).phase = s.phase := rfl
@[simp] theorem State.setMem_acc_pad80 (m : Mem) : (s.setMem .acc m).pad80 = s.pad80 := rfl
@[simp] theorem State.setMem_acc_wfill (m : Mem) : (s.setMem .acc m).wfill = s.wfill := rfl
@[simp] theorem State.setMem_acc_seedlen (m : Mem) : (s.setMem .acc m).seedlen = s.seedlen := rfl
@[simp] theorem State.setMem_acc_hs (m : Mem) : (s.setMem .acc m).hs = s.hs := rfl
@[simp] theorem State.setMem_acc_wbuf (m : Mem) : (s.setMem .acc m).wbuf = s.wbuf := rfl
@[simp] theorem State.setMem_acc_ms (m : Mem) : (s.setMem .acc m).ms = s.ms := rfl
@[simp] theorem State.setMem_acc_nblk (m : Mem) : (s.setMem .acc m).nblk = s.nblk := rfl
@[simp] theorem State.setMem_acc_nabs (m : Mem) : (s.setMem .acc m).nabs = s.nabs := rfl
@[simp] theorem State.setMem_acc_acc (m : Mem) : (s.setMem .acc m).acc = m := rfl
@[simp] theorem State.setMem_acc_blocks (m : Mem) : (s.setMem .acc m).blocks = s.blocks := rfl
@[simp] theorem State.setMem_acc_outpos (m : Mem) : (s.setMem .acc m).outpos = s.outpos := rfl
@[simp] theorem State.setMem_acc_err (m : Mem) : (s.setMem .acc m).err = s.err := rfl
@[simp] theorem State.setMem_acc_errcode (m : Mem) : (s.setMem .acc m).errcode = s.errcode := rfl
@[simp] theorem State.setMem_acc_bus (m : Mem) : (s.setMem .acc m).bus = s.bus := rfl
@[simp] theorem State.setMem_acc_response (m : Mem) : (s.setMem .acc m).response = s.response := rfl
@[simp] theorem State.setMem_acc_script (m : Mem) : (s.setMem .acc m).script = s.script := rfl
@[simp] theorem State.setMem_acc_schedule (m : Mem) : (s.setMem .acc m).schedule = s.schedule := rfl
@[simp] theorem State.setMem_acc_turnCount (m : Mem) :
    (s.setMem .acc m).turnCount = s.turnCount := rfl

/-! ## `State.setMem` on wbuf -/

@[simp] theorem State.setMem_wbuf_phase (m : Mem) : (s.setMem .wbuf m).phase = s.phase := rfl
@[simp] theorem State.setMem_wbuf_pad80 (m : Mem) : (s.setMem .wbuf m).pad80 = s.pad80 := rfl
@[simp] theorem State.setMem_wbuf_wfill (m : Mem) : (s.setMem .wbuf m).wfill = s.wfill := rfl
@[simp] theorem State.setMem_wbuf_seedlen (m : Mem) : (s.setMem .wbuf m).seedlen = s.seedlen := rfl
@[simp] theorem State.setMem_wbuf_hs (m : Mem) : (s.setMem .wbuf m).hs = s.hs := rfl
@[simp] theorem State.setMem_wbuf_wbuf (m : Mem) : (s.setMem .wbuf m).wbuf = m := rfl
@[simp] theorem State.setMem_wbuf_ms (m : Mem) : (s.setMem .wbuf m).ms = s.ms := rfl
@[simp] theorem State.setMem_wbuf_nblk (m : Mem) : (s.setMem .wbuf m).nblk = s.nblk := rfl
@[simp] theorem State.setMem_wbuf_nabs (m : Mem) : (s.setMem .wbuf m).nabs = s.nabs := rfl
@[simp] theorem State.setMem_wbuf_acc (m : Mem) : (s.setMem .wbuf m).acc = s.acc := rfl
@[simp] theorem State.setMem_wbuf_blocks (m : Mem) : (s.setMem .wbuf m).blocks = s.blocks := rfl
@[simp] theorem State.setMem_wbuf_outpos (m : Mem) : (s.setMem .wbuf m).outpos = s.outpos := rfl
@[simp] theorem State.setMem_wbuf_err (m : Mem) : (s.setMem .wbuf m).err = s.err := rfl
@[simp] theorem State.setMem_wbuf_errcode (m : Mem) : (s.setMem .wbuf m).errcode = s.errcode := rfl
@[simp] theorem State.setMem_wbuf_bus (m : Mem) : (s.setMem .wbuf m).bus = s.bus := rfl
@[simp] theorem State.setMem_wbuf_response (m : Mem) :
    (s.setMem .wbuf m).response = s.response := rfl
@[simp] theorem State.setMem_wbuf_script (m : Mem) : (s.setMem .wbuf m).script = s.script := rfl
@[simp] theorem State.setMem_wbuf_schedule (m : Mem) :
    (s.setMem .wbuf m).schedule = s.schedule := rfl
@[simp] theorem State.setMem_wbuf_turnCount (m : Mem) :
    (s.setMem .wbuf m).turnCount = s.turnCount := rfl

/-! ## `State.offer` -/

@[simp] theorem State.offer_phase (r : BusReq) (rest : List HostAction) :
    (s.offer r rest).phase = s.phase := rfl
@[simp] theorem State.offer_pad80 (r : BusReq) (rest : List HostAction) :
    (s.offer r rest).pad80 = s.pad80 := rfl
@[simp] theorem State.offer_wfill (r : BusReq) (rest : List HostAction) :
    (s.offer r rest).wfill = s.wfill := rfl
@[simp] theorem State.offer_seedlen (r : BusReq) (rest : List HostAction) :
    (s.offer r rest).seedlen = s.seedlen := rfl
@[simp] theorem State.offer_hs (r : BusReq) (rest : List HostAction) :
    (s.offer r rest).hs = s.hs := rfl
@[simp] theorem State.offer_wbuf (r : BusReq) (rest : List HostAction) :
    (s.offer r rest).wbuf = s.wbuf := rfl
@[simp] theorem State.offer_ms (r : BusReq) (rest : List HostAction) :
    (s.offer r rest).ms = s.ms := rfl
@[simp] theorem State.offer_nblk (r : BusReq) (rest : List HostAction) :
    (s.offer r rest).nblk = s.nblk := rfl
@[simp] theorem State.offer_nabs (r : BusReq) (rest : List HostAction) :
    (s.offer r rest).nabs = s.nabs := rfl
@[simp] theorem State.offer_acc (r : BusReq) (rest : List HostAction) :
    (s.offer r rest).acc = s.acc := rfl
@[simp] theorem State.offer_blocks (r : BusReq) (rest : List HostAction) :
    (s.offer r rest).blocks = s.blocks := rfl
@[simp] theorem State.offer_outpos (r : BusReq) (rest : List HostAction) :
    (s.offer r rest).outpos = s.outpos := rfl
@[simp] theorem State.offer_err (r : BusReq) (rest : List HostAction) :
    (s.offer r rest).err = s.err := rfl
@[simp] theorem State.offer_errcode (r : BusReq) (rest : List HostAction) :
    (s.offer r rest).errcode = s.errcode := rfl
@[simp] theorem State.offer_bus (r : BusReq) (rest : List HostAction) :
    (s.offer r rest).bus = some r := rfl
@[simp] theorem State.offer_response (r : BusReq) (rest : List HostAction) :
    (s.offer r rest).response = .idle := rfl
@[simp] theorem State.offer_script (r : BusReq) (rest : List HostAction) :
    (s.offer r rest).script = rest := rfl
@[simp] theorem State.offer_schedule (r : BusReq) (rest : List HostAction) :
    (s.offer r rest).schedule = s.schedule := rfl
@[simp] theorem State.offer_turnCount (r : BusReq) (rest : List HostAction) :
    (s.offer r rest).turnCount = s.turnCount := rfl

/-! ## `State.withTransaction` -/

@[simp] theorem State.withTransaction_phase (r : BusReq) :
    (s.withTransaction r).phase = s.phase := rfl
@[simp] theorem State.withTransaction_pad80 (r : BusReq) :
    (s.withTransaction r).pad80 = s.pad80 := rfl
@[simp] theorem State.withTransaction_wfill (r : BusReq) :
    (s.withTransaction r).wfill = s.wfill := rfl
@[simp] theorem State.withTransaction_seedlen (r : BusReq) :
    (s.withTransaction r).seedlen = s.seedlen := rfl
@[simp] theorem State.withTransaction_hs (r : BusReq) : (s.withTransaction r).hs = s.hs := rfl
@[simp] theorem State.withTransaction_wbuf (r : BusReq) : (s.withTransaction r).wbuf = s.wbuf := rfl
@[simp] theorem State.withTransaction_ms (r : BusReq) : (s.withTransaction r).ms = s.ms := rfl
@[simp] theorem State.withTransaction_nblk (r : BusReq) : (s.withTransaction r).nblk = s.nblk := rfl
@[simp] theorem State.withTransaction_nabs (r : BusReq) : (s.withTransaction r).nabs = s.nabs := rfl
@[simp] theorem State.withTransaction_acc (r : BusReq) : (s.withTransaction r).acc = s.acc := rfl
@[simp] theorem State.withTransaction_blocks (r : BusReq) :
    (s.withTransaction r).blocks = s.blocks := rfl
@[simp] theorem State.withTransaction_outpos (r : BusReq) :
    (s.withTransaction r).outpos = s.outpos := rfl
@[simp] theorem State.withTransaction_err (r : BusReq) : (s.withTransaction r).err = s.err := rfl
@[simp] theorem State.withTransaction_errcode (r : BusReq) :
    (s.withTransaction r).errcode = s.errcode := rfl
@[simp] theorem State.withTransaction_bus (r : BusReq) : (s.withTransaction r).bus = some r := rfl
@[simp] theorem State.withTransaction_response (r : BusReq) :
    (s.withTransaction r).response = s.response := rfl
@[simp] theorem State.withTransaction_script (r : BusReq) :
    (s.withTransaction r).script = s.script := rfl
@[simp] theorem State.withTransaction_schedule (r : BusReq) :
    (s.withTransaction r).schedule = .host :: s.schedule := rfl
@[simp] theorem State.withTransaction_turnCount (r : BusReq) :
    (s.withTransaction r).turnCount = s.turnCount := rfl

/-! ## `State.mem` -/

@[simp] theorem State.mem_acc : s.mem .acc = s.acc := rfl
@[simp] theorem State.mem_wbuf : s.mem .wbuf = s.wbuf := rfl
@[simp] theorem Space.size_acc : Space.acc.size = 65536 := rfl
@[simp] theorem Space.size_wbuf : Space.wbuf.size = 128 := rfl

/-! ## The flags look at the sequencer, the counters and `BLOCKS` only -/

@[simp] theorem State.complete_hashGoal (r : Response) : (s.complete r).hashGoal = s.hashGoal := rfl
@[simp] theorem State.complete_streamLength (r : Response) : (s.complete r).streamLength = s.streamLength := rfl
@[simp] theorem State.complete_busy (r : Response) : (s.complete r).busy = s.busy := rfl
@[simp] theorem State.complete_doneFlag (r : Response) : (s.complete r).doneFlag = s.doneFlag := rfl
@[simp] theorem State.complete_hasStream (r : Response) : (s.complete r).hasStream = s.hasStream := rfl
@[simp] theorem State.complete_seedRdy (r : Response) : (s.complete r).seedRdy = s.seedRdy := rfl
@[simp] theorem State.complete_outValid (r : Response) : (s.complete r).outValid = s.outValid := rfl
@[simp] theorem State.complete_outEnd (r : Response) : (s.complete r).outEnd = s.outEnd := rfl
@[simp] theorem State.complete_fallbackFlag (r : Response) : (s.complete r).fallbackFlag = s.fallbackFlag := rfl
@[simp] theorem State.hold_hashGoal : s.hold.hashGoal = s.hashGoal := rfl
@[simp] theorem State.hold_streamLength : s.hold.streamLength = s.streamLength := rfl
@[simp] theorem State.hold_busy : s.hold.busy = s.busy := rfl
@[simp] theorem State.hold_doneFlag : s.hold.doneFlag = s.doneFlag := rfl
@[simp] theorem State.hold_hasStream : s.hold.hasStream = s.hasStream := rfl
@[simp] theorem State.hold_seedRdy : s.hold.seedRdy = s.seedRdy := rfl
@[simp] theorem State.hold_outValid : s.hold.outValid = s.outValid := rfl
@[simp] theorem State.hold_outEnd : s.hold.outEnd = s.outEnd := rfl
@[simp] theorem State.hold_fallbackFlag : s.hold.fallbackFlag = s.fallbackFlag := rfl
@[simp] theorem State.raiseErr_hashGoal (c : ErrCode) : (s.raiseErr c).hashGoal = s.hashGoal := rfl
@[simp] theorem State.raiseErr_streamLength (c : ErrCode) : (s.raiseErr c).streamLength = s.streamLength := rfl
@[simp] theorem State.raiseErr_busy (c : ErrCode) : (s.raiseErr c).busy = s.busy := rfl
@[simp] theorem State.raiseErr_doneFlag (c : ErrCode) : (s.raiseErr c).doneFlag = s.doneFlag := rfl
@[simp] theorem State.raiseErr_hasStream (c : ErrCode) : (s.raiseErr c).hasStream = s.hasStream := rfl
@[simp] theorem State.raiseErr_seedRdy (c : ErrCode) : (s.raiseErr c).seedRdy = s.seedRdy := rfl
@[simp] theorem State.raiseErr_outValid (c : ErrCode) : (s.raiseErr c).outValid = s.outValid := rfl
@[simp] theorem State.raiseErr_outEnd (c : ErrCode) : (s.raiseErr c).outEnd = s.outEnd := rfl
@[simp] theorem State.raiseErr_fallbackFlag (c : ErrCode) : (s.raiseErr c).fallbackFlag = s.fallbackFlag := rfl

end Sys2Proof.Machine
end

