-- ==== Sys2Proof/Laws/Flags.lean ====
section
/-! SUPPORT. What each derived flag says of the state (spec/10_state.md R36), in propositions. -/

namespace Sys2Proof.Machine

variable (s : State)

theorem State.hasStream_iff : s.hasStream = true ↔ s.phase = .chain ∨ s.phase = .done := by
  simp [State.hasStream]

theorem State.busy_iff : s.busy = true ↔ s.phase = .pad ∨ s.phase = .chain := by
  simp [State.busy]

theorem State.doneFlag_iff : s.doneFlag = true ↔ s.phase = .done := by
  simp [State.doneFlag]

theorem State.seedRdy_iff : s.seedRdy = true ↔ s.phase = .seed ∧ s.wfill.toNat < 128 := by
  simp [State.seedRdy]

theorem State.outValid_iff :
    s.outValid = true ↔
      (s.phase = .chain ∨ s.phase = .done) ∧ s.outpos.toNat < 64 * s.blocks.toNat ∧
        (s.outpos.toNat < 64 * s.nblk.toNat ∨ s.nblk.toNat = 1024) := by
  simp only [State.outValid, Bool.and_eq_true, State.hasStream_iff, Bool.or_eq_true,
    decide_eq_true_eq, and_assoc]
  rfl

theorem State.outEnd_iff :
    s.outEnd = true ↔
      (s.phase = .chain ∨ s.phase = .done) ∧ s.outpos.toNat = 64 * s.blocks.toNat := by
  simp only [State.outEnd, Bool.and_eq_true, State.hasStream_iff, decide_eq_true_eq]
  rfl

theorem State.fallbackFlag_iff :
    s.fallbackFlag = true ↔
      (s.phase = .chain ∨ s.phase = .done) ∧ 65536 ≤ s.outpos.toNat := by
  simp only [State.fallbackFlag, Bool.and_eq_true, State.hasStream_iff, decide_eq_true_eq]

theorem State.hashGoal_eq : s.hashGoal = min s.blocks.toNat 1024 := rfl

theorem State.streamLength_eq : s.streamLength = 64 * s.blocks.toNat := rfl

end Sys2Proof.Machine
end

