-- ==== Sys2Proof/Laws/Memory.lean ====
section
/-! SUPPORT. The laws of the storages: a read after a write, the canonical form, and what the shared
accesses `loadByte`, `memRead`, `memWrite` can do. -/

namespace Sys2Proof.Machine

/-! ## One byte -/

@[simp] theorem Mem.read_nil (a : Nat) : Mem.read [] a = none := rfl

@[simp] theorem Mem.read_write_same (m : Mem) (a : Nat) (v : Byte) :
    (m.write a v).read a = some v := by
  induction m with
  | nil => simp [Mem.write, Mem.read]
  | cons c rest ih =>
    obtain ⟨k, w⟩ := c
    simp only [Mem.write]
    split
    · simp [Mem.read]
    · split
      · simp [Mem.read]
      · next hk => simp [Mem.read, hk, ih]

theorem Mem.read_write_other (m : Mem) {a b : Nat} (v : Byte) (h : b ≠ a) :
    (m.write a v).read b = m.read b := by
  induction m with
  | nil => simp [Mem.write, Mem.read, h.symm]
  | cons c rest ih =>
    obtain ⟨k, w⟩ := c
    simp only [Mem.write]
    split
    · simp [Mem.read, h.symm]
    · split
      · next hk => simp [Mem.read, h.symm, hk]
      · simp [Mem.read, ih]

/-! ## Several bytes -/

@[simp] theorem Mem.writeBytes_nil (m : Mem) (a : Nat) : m.writeBytes a [] = m := rfl

theorem Mem.read_writeBytes_below (m : Mem) (bs : List Byte) {a b : Nat} (h : b < a) :
    (m.writeBytes a bs).read b = m.read b := by
  induction bs generalizing m a with
  | nil => rfl
  | cons v vs ih =>
    rw [Mem.writeBytes, ih (m.write a v) (by omega), Mem.read_write_other _ _ (by omega)]

theorem Mem.read_writeBytes_above (m : Mem) (bs : List Byte) {a b : Nat}
    (h : a + bs.length ≤ b) : (m.writeBytes a bs).read b = m.read b := by
  induction bs generalizing m a with
  | nil => rfl
  | cons v vs ih =>
    simp only [List.length_cons] at h
    rw [Mem.writeBytes, ih (m.write a v) (by omega), Mem.read_write_other _ _ (by omega)]

theorem Mem.read_writeBytes_inside (m : Mem) (bs : List Byte) (a : Nat) {j : Nat}
    (h : j < bs.length) : (m.writeBytes a bs).read (a + j) = bs[j]? := by
  induction bs generalizing m a j with
  | nil => simp at h
  | cons v vs ih =>
    cases j with
    | zero =>
      rw [Mem.writeBytes, Nat.add_zero, Mem.read_writeBytes_below _ _ (by omega)]
      simp
    | succ j =>
      rw [Mem.writeBytes, show a + (j + 1) = a + 1 + j by omega,
        ih (m.write a v) (a + 1) (by simpa using h)]
      simp

/-! ## The canonical form -/

theorem Mem.risingFrom_mono {lo lo' : Nat} (h : lo' ≤ lo) (m : Mem)
    (hm : m.risingFrom lo = true) : m.risingFrom lo' = true := by
  cases m with
  | nil => rfl
  | cons c rest =>
    simp only [Mem.risingFrom, Bool.and_eq_true, decide_eq_true_eq] at hm ⊢
    exact ⟨by omega, hm.2⟩

theorem Mem.risingFrom_write (m : Mem) {lo a : Nat} (v : Byte) (ha : lo ≤ a)
    (hm : m.risingFrom lo = true) : (m.write a v).risingFrom lo = true := by
  induction m generalizing lo with
  | nil => simp [Mem.write, Mem.risingFrom, ha]
  | cons c rest ih =>
    obtain ⟨k, w⟩ := c
    simp only [Mem.risingFrom, Bool.and_eq_true, decide_eq_true_eq] at hm
    simp only [Mem.write]
    split
    · next hlt =>
      simp only [Mem.risingFrom, Bool.and_eq_true, decide_eq_true_eq]
      exact ⟨ha, by omega, hm.2⟩
    · split
      · next hk => subst hk; simp [Mem.risingFrom, hm.1, hm.2]
      · simp only [Mem.risingFrom, Bool.and_eq_true, decide_eq_true_eq]
        exact ⟨hm.1, ih (by omega) hm.2⟩

theorem Mem.all_lt_write (m : Mem) {size a : Nat} (v : Byte) (ha : a < size)
    (hm : m.all (fun c => decide (c.1 < size)) = true) :
    (m.write a v).all (fun c => decide (c.1 < size)) = true := by
  induction m with
  | nil => simp [Mem.write, ha]
  | cons c rest ih =>
    obtain ⟨k, w⟩ := c
    simp only [List.all_cons, Bool.and_eq_true, decide_eq_true_eq] at hm
    simp only [Mem.write]
    split
    · simp [ha, hm.1, hm.2]
    · split
      · simp [ha, hm.2]
      · simp [hm.1, ih hm.2]

/-- A write inside the storage keeps the canonical form. -/
theorem Mem.wf_write (m : Mem) {size a : Nat} (v : Byte) (ha : a < size)
    (hm : m.wf size = true) : (m.write a v).wf size = true := by
  simp only [Mem.wf, Bool.and_eq_true] at hm ⊢
  exact ⟨m.risingFrom_write v (Nat.zero_le a) hm.1, m.all_lt_write v ha hm.2⟩

/-- A write of several bytes inside the storage keeps the canonical form. -/
theorem Mem.wf_writeBytes (m : Mem) {size a : Nat} (bs : List Byte)
    (ha : a + bs.length ≤ size) (hm : m.wf size = true) : (m.writeBytes a bs).wf size = true := by
  induction bs generalizing m a with
  | nil => exact hm
  | cons v vs ih =>
    simp only [List.length_cons] at ha
    exact ih (m.write a v) (by omega) (m.wf_write v (by omega) hm)

/-- The storages have the canonical form at reset. -/
theorem State.reset_storages_wf :
    State.reset.acc.wf 65536 = true ∧ State.reset.wbuf.wf 128 = true := ⟨rfl, rfl⟩

/-! ## The shared accesses -/

/-- All that `loadByte` can do. -/
theorem loadByte_cases (s : State) (sp : Space) (a : Nat) :
    (∃ v, loadByte s sp a = .ok v ∧ a < sp.size ∧ (s.mem sp).read a = some v) ∨
    (loadByte s sp a = .error (.unwrittenCell sp a) ∧ a < sp.size ∧ (s.mem sp).read a = none) ∨
    (loadByte s sp a = .error (.noSuchAddress sp a) ∧ sp.size ≤ a) := by
  unfold loadByte
  split
  · next h =>
    split
    · next v hv => exact .inl ⟨v, rfl, h, hv⟩
    · next hv => exact .inr (.inl ⟨rfl, h, hv⟩)
  · next h => exact .inr (.inr ⟨rfl, by omega⟩)

/-- `loadByte` answers the byte at the address, where it is inside and written. -/
theorem loadByte_ok_iff (s : State) (sp : Space) (a : Nat) (v : Byte) :
    loadByte s sp a = .ok v ↔ a < sp.size ∧ (s.mem sp).read a = some v := by
  obtain ⟨w, h, ha, hw⟩ | ⟨h, ha, hw⟩ | ⟨h, ha⟩ := loadByte_cases s sp a
  · simp [h, ha, hw]
  · simp [h, hw]
  · simp [h, ha]

/-- `memRead` answers `bs` exactly where it has `n` bytes, all inside, and each is the byte at its
address. -/
theorem memRead_ok_iff (s : State) (sp : Space) (a n : Nat) (bs : List Byte) :
    memRead s sp a n = .ok bs ↔
      bs.length = n ∧ ∀ j < n, a + j < sp.size ∧ (s.mem sp).read (a + j) = bs[j]? := by
  induction n generalizing a bs with
  | zero =>
    simp only [memRead, Except.ok.injEq, Nat.not_lt_zero, false_imp_iff, implies_true, and_true]
    constructor
    · rintro rfl; rfl
    · intro h; exact (List.eq_nil_of_length_eq_zero h).symm
  | succ n ih =>
    have key : memRead s sp a (n + 1) = .ok bs ↔
        ∃ v vs, bs = v :: vs ∧ loadByte s sp a = .ok v ∧ memRead s sp (a + 1) n = .ok vs := by
      simp only [memRead]
      split
      · next f hf => simp [hf]
      · next v hv =>
        split
        · next f hf => simp [hf]
        · next vs hvs =>
          simp only [Except.ok.injEq, hv, hvs]
          constructor
          · rintro rfl; exact ⟨v, vs, rfl, rfl, rfl⟩
          · rintro ⟨v', vs', rfl, h1, h2⟩; rw [h1, h2]
    rw [key]
    constructor
    · rintro ⟨v, vs, rfl, hv, hvs⟩
      obtain ⟨hlen, hall⟩ := (ih (a + 1) vs).1 hvs
      refine ⟨by simp [hlen], fun j hj => ?_⟩
      cases j with
      | zero => simpa using (loadByte_ok_iff s sp a v).1 hv
      | succ j =>
        have := hall j (by omega)
        rw [show a + (j + 1) = a + 1 + j by omega]
        simpa using this
    · rintro ⟨hlen, hall⟩
      cases bs with
      | nil => simp at hlen
      | cons v vs =>
        refine ⟨v, vs, rfl, ?_, ?_⟩
        · have := hall 0 (by omega)
          exact (loadByte_ok_iff s sp a v).2 (by simpa using this)
        · refine (ih (a + 1) vs).2 ⟨by simpa using hlen, fun j hj => ?_⟩
          have := hall (j + 1) (by omega)
          rw [show a + (j + 1) = a + 1 + j by omega] at this
          simpa using this

/-- `memRead` succeeds where every byte is inside and written. -/
theorem memRead_succeeds (s : State) (sp : Space) (a n : Nat) (hin : a + n ≤ sp.size)
    (hw : ∀ j < n, ((s.mem sp).read (a + j)).isSome) : ∃ bs, memRead s sp a n = .ok bs := by
  induction n generalizing a with
  | zero => exact ⟨[], rfl⟩
  | succ n ih =>
    obtain ⟨v, hv⟩ := Option.isSome_iff_exists.1 (hw 0 (by omega))
    obtain ⟨vs, hvs⟩ := ih (a + 1) (by omega) (fun j hj => by
      have := hw (j + 1) (by omega)
      rwa [show a + (j + 1) = a + 1 + j by omega] at this)
    have hl : loadByte s sp a = .ok v :=
      (loadByte_ok_iff s sp a v).2 ⟨by omega, by simpa using hv⟩
    exact ⟨v :: vs, by simp [memRead, hl, hvs]⟩

/-- All that `memWrite` can do. -/
theorem memWrite_cases (s : State) (sp : Space) (a : Nat) (bs : List Byte) :
    (memWrite s sp a bs = .ok (s.setMem sp ((s.mem sp).writeBytes a bs)) ∧
      a + bs.length ≤ sp.size) ∨
    (memWrite s sp a bs = .error (.noSuchAddress sp (a + bs.length - 1)) ∧
      sp.size < a + bs.length) := by
  unfold memWrite
  split
  · next h => exact .inl ⟨rfl, h⟩
  · next h => exact .inr ⟨rfl, by omega⟩

/-- Inside the storage `memWrite` writes the bytes. -/
theorem memWrite_inside (s : State) (sp : Space) (a : Nat) (bs : List Byte)
    (h : a + bs.length ≤ sp.size) :
    memWrite s sp a bs = .ok (s.setMem sp ((s.mem sp).writeBytes a bs)) := by
  simp [memWrite, h]

end Sys2Proof.Machine
end

