-- ==== Sys2Proof/Laws/Sha512.lean ====
section
/-! SUPPORT. Lengths of the byte strings of the hash and of the message blocks the engine builds. -/

namespace Sys2Proof.Machine

@[simp] theorem be64_length (w : Word64) : (be64 w).length = 8 := rfl

@[simp] theorem be128_length (v : Nat) : (be128 v).length = 16 := by simp [be128]

@[simp] theorem zeros_length (k : Nat) : (zeros k).length = k := by simp [zeros]

@[simp] theorem digestBytes_length (h : Chaining) : (digestBytes h).length = 64 := by
  simp [digestBytes]

@[simp] theorem sha512_length (m : List Byte) : (sha512 m).length = 64 := by simp [sha512]

/-- Every Digest Block has 64 bytes. -/
@[simp] theorem blk_length (seed : List Byte) (i : Nat) : (blk seed i).length = 64 := by
  unfold blk
  split <;> simp

/-- The accumulator after `k` blocks is the one after `k - 1` blocks and block `k - 1`. -/
theorem chainBytes_succ (seed : List Byte) (k : Nat) :
    chainBytes seed (k + 1) = chainBytes seed k ++ blk seed k := by
  cases k with
  | zero => simp [chainBytes, blk]
  | succ k => simp [chainBytes, blk]

/-- The accumulator after `k` blocks has `64 * k` bytes. -/
@[simp] theorem chainBytes_length (seed : List Byte) (k : Nat) :
    (chainBytes seed k).length = 64 * k := by
  induction k with
  | zero => rfl
  | succ k ih => rw [chainBytes_succ, List.length_append, ih, blk_length]; omega

/-- `out[p]` (R190) with the constants of R5 written out. -/
theorem streamByte_eq (seed : List Byte) (n p : Nat) :
    streamByte seed n p =
      if p < 64 * min n 1024 then (chainBytes seed (min n 1024)).getD p 0
      else (chainBytes seed (min n 1024)).getD (p % 256) 0 := rfl

@[simp] theorem expand_length (seed : List Byte) (n : Nat) :
    (expand seed n).length = 64 * n := by simp [expand, Config.digestBytes]

/-- The block of `E_PAD1` has 128 bytes (R193). -/
theorem pad1Block_length (w : List Byte) (h : w.length ≤ 127) : (pad1Block w).length = 128 := by
  simp [pad1Block]; omega

/-- The block of `E_SEEDFINAL` has 128 bytes (R194). -/
theorem seedFinalBlock_length (pad80 : Bool) (w : List Byte) (n : Nat) (h : w.length ≤ 111) :
    (seedFinalBlock pad80 w n).length = 128 := by
  cases pad80 <;> simp [seedFinalBlock] <;> omega

/-- The block of `E_FINAL` has 128 bytes (R196). -/
theorem finalBlock_length (i : Nat) (d : List Byte) (h : i % 2 = 1 → d.length = 64) :
    (finalBlock i d).length = 128 := by
  unfold finalBlock
  split
  · next hi => simp [h hi]
  · simp

end Sys2Proof.Machine
end

