-- ==== Sys2Proof/Laws/Exec.lean ====
section
/-! SUPPORT. What each meaning, each engine step and each turn can do, said once. -/

namespace Sys2Proof.Machine

/-! ## The meanings that look at the state before they act -/

theorem execInit_cases (s : State) :
    (s.busy = true ∧ execInit s = .next (s.raiseErr .seq)) ∨
    (s.busy = false ∧ execInit s = .next (s.newExpansion.complete .ok)) := by
  unfold execInit
  cases h : s.busy <;> simp

theorem execStart_cases (s : State) :
    (s.phase ≠ .seed ∧ execStart s = .next (s.raiseErr .seq)) ∨
    (s.phase = .seed ∧ s.blocks = 0 ∧ execStart s = .next (s.raiseErr .badLen)) ∨
    (s.phase = .seed ∧ s.blocks ≠ 0 ∧
      execStart s = .next ({ s with phase := .pad }.complete .ok)) := by
  unfold execStart
  by_cases h : s.phase = .seed
  · by_cases hb : s.blocks = 0
    · exact .inr (.inl ⟨h, hb, by simp only [h, hb, ne_eq, not_true_eq_false, if_true, if_false]⟩)
    · exact .inr (.inr ⟨h, hb, by simp only [h, hb, ne_eq, not_true_eq_false, if_false]⟩)
  · exact .inl ⟨h, by simp only [h, ne_eq, not_false_eq_true, if_true]⟩

theorem execRewind_cases (s : State) :
    (s.phase = .seed ∧ execRewind s = .next (s.raiseErr .seq)) ∨
    (s.phase ≠ .seed ∧ execRewind s = .next ({ s with outpos := 0 }.complete .ok)) := by
  unfold execRewind
  by_cases h : s.phase = .seed <;> simp [h]

theorem execWrBlocks_cases (data : Word32) (s : State) :
    (blocksDataLegal data = false ∧ execWrBlocks data s = .next (s.raiseErr .badVal)) ∨
    (blocksDataLegal data = true ∧ s.phase ≠ .seed ∧
      execWrBlocks data s = .next (s.raiseErr .seq)) ∨
    (blocksDataLegal data = true ∧ s.phase = .seed ∧
      execWrBlocks data s = .next ({ s with blocks := blockCount data }.complete .ok)) := by
  unfold execWrBlocks
  cases hd : blocksDataLegal data <;> by_cases h : s.phase = .seed <;> simp [h]

/-- `WR SEED_DATA`; a byte is only ever appended at an address below 128, so it never faults. -/
theorem execWrSeedData_cases (data : Word32) (s : State) :
    (seedDataLegal data = false ∧ execWrSeedData data s = .next (s.raiseErr .badVal)) ∨
    (seedDataLegal data = true ∧ s.phase ≠ .seed ∧
      execWrSeedData data s = .next (s.raiseErr .seq)) ∨
    (seedDataLegal data = true ∧ s.phase = .seed ∧ s.seedlen.toNat = 2 ^ 64 - 1 ∧
      execWrSeedData data s = .next (s.raiseErr .seedOvf)) ∨
    (seedDataLegal data = true ∧ s.phase = .seed ∧ s.seedlen.toNat ≠ 2 ^ 64 - 1 ∧
      128 ≤ s.wfill.toNat ∧ execWrSeedData data s = .next s.hold) ∨
    (seedDataLegal data = true ∧ s.phase = .seed ∧ s.seedlen.toNat ≠ 2 ^ 64 - 1 ∧
      s.wfill.toNat < 128 ∧
      execWrSeedData data s = .next ({ s with
        wbuf := s.wbuf.write s.wfill.toNat (seedByte data)
        wfill := s.wfill + 1
        seedlen := s.seedlen + 1 }.complete .ok)) := by
  unfold execWrSeedData
  by_cases hd : seedDataLegal data = true
  · by_cases hp : s.phase = .seed
    · by_cases hl : s.seedlen.toNat = 2 ^ 64 - 1
      · exact .inr (.inr (.inl ⟨hd, hp, hl, by simp [hd, hp, hl]⟩))
      · by_cases hw : 128 ≤ s.wfill.toNat
        · refine .inr (.inr (.inr (.inl ⟨hd, hp, hl, hw, ?_⟩)))
          rw [if_neg (by simp [hd]), if_neg (by simp [hp]), if_neg hl, if_pos hw]
        · have hin : s.wfill.toNat + [seedByte data].length ≤ Space.wbuf.size := by
            simp; omega
          refine .inr (.inr (.inr (.inr ⟨hd, hp, hl, by omega, ?_⟩)))
          rw [if_neg (by simp [hd]), if_neg (by simp [hp]), if_neg hl, if_neg hw]
          simp only [memWrite_inside s .wbuf _ _ hin]
          rfl
    · exact .inr (.inl ⟨hd, hp, by simp [hd, hp]⟩)
  · exact .inl ⟨by simpa using hd, by simp [hd]⟩

theorem execRdOutData_cases (s : State) :
    (s.phase = .seed ∧ execRdOutData s = .next (s.raiseErr .seq)) ∨
    (s.phase ≠ .seed ∧ s.outpos.toNat = s.streamLength ∧
      execRdOutData s = .next (s.raiseErr .underrun)) ∨
    (s.phase ≠ .seed ∧ s.outpos.toNat ≠ s.streamLength ∧ s.outValid = false ∧
      execRdOutData s = .next s.hold) ∨
    (∃ v, s.phase ≠ .seed ∧ s.outpos.toNat ≠ s.streamLength ∧ s.outValid = true ∧
      s.acc.read (streamAddr s.outpos.toNat) = some v ∧
      execRdOutData s =
        .next ({ s with outpos := s.outpos + 1 }.complete (.okRead (zext32 v)))) ∨
    (s.phase ≠ .seed ∧ s.outpos.toNat ≠ s.streamLength ∧ s.outValid = true ∧
      ∃ f, loadByte s .acc (streamAddr s.outpos.toNat) = .error f ∧
        execRdOutData s = .fault f) := by
  unfold execRdOutData
  by_cases hp : s.phase = .seed
  · simp [hp]
  · by_cases he : s.outpos.toNat = s.streamLength
    · simp [hp, he]
    · cases hv : s.outValid
      · simp [hp, he]
      · cases hl : loadByte s .acc (streamAddr s.outpos.toNat) with
        | error f => simp [hp, he]
        | ok v =>
          have := ((loadByte_ok_iff s .acc _ v).1 hl).2
          simp only [State.mem_acc] at this
          simp [hp, he, this]

/-- Every next state that `exec` answers is an error, a hold, or a completion with `OK`. -/
theorem exec_next_cases (i : Instr) (s t : State) (h : exec i s = .next t) :
    (∃ c, t = s.raiseErr c) ∨ t = s.hold ∨
    ∃ (u : State) (r : Response), t = u.complete r ∧ (r = .ok ∨ ∃ v, r = .okRead v) := by
  cases i <;> simp only [exec] at h
  case init =>
    obtain ⟨_, e⟩ | ⟨_, e⟩ := execInit_cases s <;> rw [e] at h <;> cases h
    · exact .inl ⟨_, rfl⟩
    · exact .inr (.inr ⟨_, _, rfl, .inl rfl⟩)
  case start =>
    obtain ⟨_, e⟩ | ⟨_, _, e⟩ | ⟨_, _, e⟩ := execStart_cases s <;> rw [e] at h <;> cases h
    · exact .inl ⟨_, rfl⟩
    · exact .inl ⟨_, rfl⟩
    · exact .inr (.inr ⟨_, _, rfl, .inl rfl⟩)
  case rewind =>
    obtain ⟨_, e⟩ | ⟨_, e⟩ := execRewind_cases s <;> rw [e] at h <;> cases h
    · exact .inl ⟨_, rfl⟩
    · exact .inr (.inr ⟨_, _, rfl, .inl rfl⟩)
  case wrBlocks d =>
    obtain ⟨_, e⟩ | ⟨_, _, e⟩ | ⟨_, _, e⟩ := execWrBlocks_cases d s <;> rw [e] at h <;> cases h
    · exact .inl ⟨_, rfl⟩
    · exact .inl ⟨_, rfl⟩
    · exact .inr (.inr ⟨_, _, rfl, .inl rfl⟩)
  case wrSeedData d =>
    obtain ⟨_, e⟩ | ⟨_, _, e⟩ | ⟨_, _, _, e⟩ | ⟨_, _, _, _, e⟩ | ⟨_, _, _, _, e⟩ :=
      execWrSeedData_cases d s <;> rw [e] at h <;> cases h
    · exact .inl ⟨_, rfl⟩
    · exact .inl ⟨_, rfl⟩
    · exact .inl ⟨_, rfl⟩
    · exact .inr (.inl rfl)
    · exact .inr (.inr ⟨_, _, rfl, .inl rfl⟩)
  case rdOutData =>
    obtain ⟨_, e⟩ | ⟨_, _, e⟩ | ⟨_, _, _, e⟩ | ⟨v, _, _, _, _, e⟩ | ⟨_, _, _, f, _, e⟩ :=
      execRdOutData_cases s <;> rw [e] at h <;> cases h
    · exact .inl ⟨_, rfl⟩
    · exact .inl ⟨_, rfl⟩
    · exact .inr (.inl rfl)
    · exact .inr (.inr ⟨_, _, rfl, .inr ⟨_, rfl⟩⟩)
  all_goals
    cases h
    exact .inr (.inr ⟨_, _, rfl, .inr ⟨_, rfl⟩⟩)

/-! ## The address computation of the output path (R199) -/

theorem streamAddr_lt (p : Nat) : streamAddr p < 65536 := by
  unfold streamAddr
  split
  · assumption
  · have : p % 256 < 256 := Nat.mod_lt _ (by decide)
    show p % 256 < 65536
    omega

/-! ## The engine -/

/-- The engine's turn takes a step that is enabled, or none is. -/
theorem engineTurn_cases (s : State) :
    (∃ e : EngineStep, e.enabled s = true ∧ engineTurn s = e.run s) ∨
    ((∀ e : EngineStep, e.enabled s = false) ∧ engineTurn s = .next s) := by
  unfold engineTurn
  cases h : enabledStep s with
  | some e => exact .inl ⟨e, by simpa using List.find?_some h, rfl⟩
  | none =>
    refine .inr ⟨fun e => ?_, rfl⟩
    have := List.find?_eq_none.1 h e (by cases e <;> simp)
    simpa using this

/-- `E_SEEDBLK` on a full buffer `b`. -/
theorem engineSeedBlk_ok (s : State) (b : List Byte) (h : memRead s .wbuf 0 128 = .ok b) :
    engineSeedBlk s = .next { s with hs := compress s.hs b, wfill := 0 } := by
  simp [engineSeedBlk, h]

/-- `E_PAD1` on the buffered seed bytes `w`. -/
theorem enginePad1_ok (s : State) (w : List Byte)
    (h : memRead s .wbuf 0 s.wfill.toNat = .ok w) :
    enginePad1 s =
      .next { s with hs := compress s.hs (pad1Block w), wfill := 0, pad80 := true } := by
  simp [enginePad1, h]

/-- `E_SEEDFINAL` on the buffered seed bytes `w`. Its 64 bytes always fit in `ACC`. -/
theorem engineSeedFinal_ok (s : State) (w : List Byte)
    (h : memRead s .wbuf 0 s.wfill.toNat = .ok w) :
    engineSeedFinal s =
      .next { s with
        hs := compress s.hs (seedFinalBlock s.pad80 w s.seedlen.toNat)
        acc := s.acc.writeBytes 0
          (digestBytes (compress s.hs (seedFinalBlock s.pad80 w s.seedlen.toNat)))
        nblk := 1
        nabs := 0
        pad80 := false
        wfill := 0
        ms := iv
        phase := if s.hashGoal = 1 then .done else .chain } := by
  have hin : ∀ c : Chaining, 0 + (digestBytes c).length ≤ Space.acc.size := by
    intro c; simp
  simp only [engineSeedFinal, h, memWrite_inside s .acc _ _ (hin _), State.setMem, State.mem]

/-- `E_ABSORB` on the pair of Digest Blocks `b`. -/
theorem engineAbsorb_ok (s : State) (b : List Byte)
    (h : memRead s .acc (128 * s.nabs.toNat) 128 = .ok b) :
    engineAbsorb s = .next { s with ms := compress s.ms b, nabs := s.nabs + 1 } := by
  simp [engineAbsorb, h]

/-- `E_FINAL` for block `NBLK`, with `d` what it reads of `ACC`. -/
theorem engineFinal_ok (s : State) (d : List Byte) (h : readLastBlock s s.nblk.toNat = .ok d)
    (hn : s.nblk.toNat < 1024) :
    engineFinal s =
      .next { s with
        acc := s.acc.writeBytes (64 * s.nblk.toNat)
          (digestBytes (compress s.ms (finalBlock s.nblk.toNat d)))
        nblk := s.nblk + 1
        phase := if s.nblk.toNat + 1 = s.hashGoal then .done else s.phase } := by
  have hin : ∀ c : Chaining, 64 * s.nblk.toNat + (digestBytes c).length ≤ Space.acc.size := by
    intro c; simp only [digestBytes_length, Space.size_acc]; omega
  simp only [engineFinal, h, memWrite_inside s .acc _ _ (hin _), State.setMem, State.mem]

/-- While `E_FINAL` is enabled block `NBLK` lies inside the accumulator: `NABS` has 9 bits. -/
theorem nblk_lt_of_final_enabled (s : State) (h : EngineStep.enabled s .final = true) :
    s.nblk.toNat < 1024 := by
  simp only [EngineStep.enabled, Bool.and_eq_true, decide_eq_true_eq] at h
  have := s.nabs.isLt
  omega

/-- Every next state of the engine's turn is that of an idle engine or of one of the five steps. -/
theorem engineTurn_next_cases (s t : State) (h : engineTurn s = .next t) :
    ((∀ e : EngineStep, e.enabled s = false) ∧ t = s) ∨
    (EngineStep.enabled s .seedBlk = true ∧ ∃ b, memRead s .wbuf 0 128 = .ok b ∧
      t = { s with hs := compress s.hs b, wfill := 0 }) ∨
    (EngineStep.enabled s .pad1 = true ∧ ∃ w, memRead s .wbuf 0 s.wfill.toNat = .ok w ∧
      t = { s with hs := compress s.hs (pad1Block w), wfill := 0, pad80 := true }) ∨
    (EngineStep.enabled s .seedFinal = true ∧ ∃ w, memRead s .wbuf 0 s.wfill.toNat = .ok w ∧
      t = { s with
        hs := compress s.hs (seedFinalBlock s.pad80 w s.seedlen.toNat)
        acc := s.acc.writeBytes 0
          (digestBytes (compress s.hs (seedFinalBlock s.pad80 w s.seedlen.toNat)))
        nblk := 1
        nabs := 0
        pad80 := false
        wfill := 0
        ms := iv
        phase := if s.hashGoal = 1 then .done else .chain }) ∨
    (EngineStep.enabled s .absorb = true ∧ ∃ b,
      memRead s .acc (128 * s.nabs.toNat) 128 = .ok b ∧
      t = { s with ms := compress s.ms b, nabs := s.nabs + 1 }) ∨
    (EngineStep.enabled s .final = true ∧ s.nblk.toNat < 1024 ∧ ∃ d,
      readLastBlock s s.nblk.toNat = .ok d ∧
      t = { s with
        acc := s.acc.writeBytes (64 * s.nblk.toNat)
          (digestBytes (compress s.ms (finalBlock s.nblk.toNat d)))
        nblk := s.nblk + 1
        phase := if s.nblk.toNat + 1 = s.hashGoal then .done else s.phase }) := by
  obtain ⟨e, he, hrun⟩ | ⟨hnone, hrun⟩ := engineTurn_cases s
  · rw [hrun] at h
    cases e with
    | seedBlk =>
      cases hr : memRead s .wbuf 0 128 with
      | error f => simp [EngineStep.run, engineSeedBlk, hr] at h
      | ok b =>
        rw [EngineStep.run, engineSeedBlk_ok s b hr] at h
        cases h
        exact .inr (.inl ⟨he, b, rfl, rfl⟩)
    | pad1 =>
      cases hr : memRead s .wbuf 0 s.wfill.toNat with
      | error f => simp [EngineStep.run, enginePad1, hr] at h
      | ok w =>
        rw [EngineStep.run, enginePad1_ok s w hr] at h
        cases h
        exact .inr (.inr (.inl ⟨he, w, rfl, rfl⟩))
    | seedFinal =>
      cases hr : memRead s .wbuf 0 s.wfill.toNat with
      | error f => simp [EngineStep.run, engineSeedFinal, hr] at h
      | ok w =>
        rw [EngineStep.run, engineSeedFinal_ok s w hr] at h
        cases h
        exact .inr (.inr (.inr (.inl ⟨he, w, rfl, rfl⟩)))
    | absorb =>
      cases hr : memRead s .acc (128 * s.nabs.toNat) 128 with
      | error f => simp [EngineStep.run, engineAbsorb, hr] at h
      | ok b =>
        rw [EngineStep.run, engineAbsorb_ok s b hr] at h
        cases h
        exact .inr (.inr (.inr (.inr (.inl ⟨he, b, rfl, rfl⟩))))
    | final =>
      have hn := nblk_lt_of_final_enabled s he
      cases hr : readLastBlock s s.nblk.toNat with
      | error f => simp [EngineStep.run, engineFinal, hr] at h
      | ok d =>
        rw [EngineStep.run, engineFinal_ok s d hr hn] at h
        cases h
        exact .inr (.inr (.inr (.inr (.inr ⟨he, hn, d, rfl, rfl⟩))))
  · rw [hrun] at h
    cases h
    exact .inl ⟨hnone, rfl⟩

/-! ## The turns -/

theorem takeTurn_cons (s : State) (t : Turn) (ts : List Turn) (h : s.schedule = t :: ts) :
    takeTurn s = (t, { s with schedule := ts }) := by
  simp [takeTurn, h]

theorem takeTurn_nil (s : State) (h : s.schedule = []) :
    takeTurn s = (Config.freeTurn s.turnCount, { s with turnCount := s.turnCount + 1 }) := by
  simp [takeTurn, h]

theorem perform_ok (r : BusReq) (s : State) (i : Instr) (h : decode r.word = .ok i) :
    perform r s = exec i s := by
  simp [perform, h]

theorem perform_rejected (r : BusReq) (s : State) (e : Reject) (h : decode r.word = .error e) :
    perform r s = .next (s.raiseErr (rejectCode e)) := by
  simp [perform, h]

/-- All that the host can present. -/
theorem present_cases (s : State) :
    (s.script = [] ∧ present s = s) ∨
    (∃ r rest, present s = s.offer r rest) ∨
    (∃ rest, s.script = .waitDone true :: rest ∧ pollSawDone s.response = true ∧
      present s = { s with script := rest }) := by
  unfold present
  split
  · next h => exact .inl ⟨h, rfl⟩
  · next r rest h => exact .inr (.inl ⟨r, rest, rfl⟩)
  · next polled rest h =>
    split
    · next hp =>
      simp only [Bool.and_eq_true] at hp
      obtain ⟨rfl, hs⟩ := hp
      exact .inr (.inr ⟨rest, h, hs, rfl⟩)
    · exact .inr (.inl ⟨_, _, rfl⟩)

/-- All that one step can do: a reset, the engine's turn, a transaction tried, or one presented. -/
theorem step_cases (s : State) :
    ((takeTurn s).1 = .reset ∧ step s = .next (takeTurn s).2.assertReset) ∨
    ((takeTurn s).1 = .engine ∧ step s = engineTurn (takeTurn s).2) ∨
    (∃ r, (takeTurn s).1 = .host ∧ s.bus = some r ∧ step s = perform r (takeTurn s).2) ∨
    ((takeTurn s).1 = .host ∧ s.bus = none ∧ step s = .next (present (takeTurn s).2)) := by
  have hb : (takeTurn s).2.bus = s.bus := by unfold takeTurn; split <;> rfl
  unfold step
  cases ht : (takeTurn s).1 with
  | reset => simp [turnEffect]
  | engine => simp [turnEffect]
  | host =>
    cases hr : s.bus with
    | none => simp [turnEffect, hostTurn, hb, hr]
    | some r => simp [turnEffect, hostTurn, hb, hr]

end Sys2Proof.Machine
end

