-- ==== Sys2Proof/Laws/PerInstr.lean ====
section
/-! SUPPORT. The per-instruction family `EncodesItsRow`: the word of a well-formed instruction matches the
instruction's row of spec/opcode_table.json. -/

namespace Sys2Proof.Laws

/-- The encoding of a well-formed instruction matches its row (spec/30_encoding.md R91). -/
def EncodesItsRow.Statement (i : Instr) : Prop := i.wellFormed = true → MatchesRow (encode i) i

/-- A word matches a mask that keeps `W`, `ADDR` and the data bits from `k` on, if its own data bits
from `k` on are 0. -/
theorem word_and_highMask (we : Bool) (addr : BitVec 8) (data : Word32) (k : Nat)
    (hk : k ≤ 32) (h : ∀ j, k ≤ j → data.getLsbD j = false) :
    (BitVec.ofBool we ++ addr ++ data) &&& (BitVec.allOnes 41 <<< k) =
      BitVec.ofBool we ++ addr ++ (0 : Word32) := by
  apply BitVec.eq_of_getLsbD_eq
  intro j hj
  simp only [BitVec.getLsbD_and, BitVec.getLsbD_append, BitVec.getLsbD_shiftLeft,
    BitVec.getLsbD_allOnes]
  by_cases h32 : j < 32
  · by_cases hkj : k ≤ j
    · have hz : data[j] = false := by rw [← BitVec.getLsbD_eq_getElem h32]; exact h j hkj
      simp [h32, hz]
    · simp [h32, show j < k by omega]
  · simp [h32, show ¬ j < k by omega, show j < 41 by omega, show j - k < 41 by omega]

/-- Bits of a word whose upper part is 0. -/
theorem getLsbD_of_upper_zero {n : Nat} (data : Word32) (k : Nat) (hn : k + n = 32)
    (h : data.extractLsb' k n = 0) (j : Nat) (hj : k ≤ j) : data.getLsbD j = false := by
  by_cases h32 : j < 32
  · have := congrArg (fun v => v.getLsbD (j - k)) h
    simp only [BitVec.getLsbD_extractLsb'] at this
    simpa [show j - k < n by omega, show k + (j - k) = j by omega] using this
  · simp [BitVec.getLsbD_of_ge _ _ (by omega : 32 ≤ j)]

theorem EncodesItsRow.init : EncodesItsRow.Statement .init := fun _ => by decide
theorem EncodesItsRow.start : EncodesItsRow.Statement .start := fun _ => by decide
theorem EncodesItsRow.rewind : EncodesItsRow.Statement .rewind := fun _ => by decide
theorem EncodesItsRow.wrBlocks (data : Word32) : EncodesItsRow.Statement (.wrBlocks data) := by
  intro h
  have hz : data.extractLsb' 26 6 = 0 := by
    simpa [Instr.wellFormed, blocksDataLegal] using h
  exact word_and_highMask true 0x08 data 26 (by decide)
    (fun j => getLsbD_of_upper_zero data 26 rfl hz j)
theorem EncodesItsRow.rdBlocks : EncodesItsRow.Statement .rdBlocks := fun _ => by decide
theorem EncodesItsRow.wrSeedData (data : Word32) : EncodesItsRow.Statement (.wrSeedData data) := by
  intro h
  have hz : data.extractLsb' 8 24 = 0 := by
    simpa [Instr.wellFormed, seedDataLegal] using h
  exact word_and_highMask true 0x0C data 8 (by decide)
    (fun j => getLsbD_of_upper_zero data 8 rfl hz j)
theorem EncodesItsRow.rdOutData : EncodesItsRow.Statement .rdOutData := fun _ => by decide
theorem EncodesItsRow.rdStatus : EncodesItsRow.Statement .rdStatus := fun _ => by decide
theorem EncodesItsRow.rdSeedlenLo : EncodesItsRow.Statement .rdSeedlenLo := fun _ => by decide
theorem EncodesItsRow.rdSeedlenHi : EncodesItsRow.Statement .rdSeedlenHi := fun _ => by decide
theorem EncodesItsRow.rdNblk : EncodesItsRow.Statement .rdNblk := fun _ => by decide
theorem EncodesItsRow.rdOutpos : EncodesItsRow.Statement .rdOutpos := fun _ => by decide
theorem EncodesItsRow.rdParam : EncodesItsRow.Statement .rdParam := fun _ => by decide

end Sys2Proof.Laws
end

