-- ==== Sys2Proof/Tests/Slice0.lean ====
section
/-! SUPPORT. Tests. Every expected value is one that spec/95_test_vectors.md (V…) or a rule of spec/ (R…)
states, never the model's own answer. The last section holds the witnesses: for each statement with
hypotheses, concrete values that meet them. -/

namespace Sys2Proof.Machine.Tests

set_option autoImplicit false
set_option Elab.async false

/-! ## Well-formedness: the ill-formed terms are refused, the boundary ones are not (R96, R97) -/

theorem test_wellFormed_refuses_blocks : (Instr.wrBlocks 0x04000000).wellFormed = false := by decide
theorem test_wellFormed_refuses_seed : (Instr.wrSeedData 0x100).wellFormed = false := by decide
theorem test_wellFormed_largest :
    (Instr.wrBlocks 0x03FFFFFF).wellFormed = true ∧ (Instr.wrSeedData 0xFF).wellFormed = true := by
  decide

/-! ## Decoding: words of spec/opcode_table.json and of V100 to V135 -/

theorem test_decode_init : decode 0x10000000001 = .ok .init := by decide
theorem test_decode_start : decode 0x10000000002 = .ok .start := by decide
theorem test_decode_rewind : decode 0x10000000003 = .ok .rewind := by decide
theorem test_decode_wrBlocks : decode 0x10803FFFFFF = .ok (.wrBlocks 67108863) := by decide
theorem test_decode_rdBlocks : decode 0x00800000000 = .ok .rdBlocks := by decide
theorem test_decode_wrSeedData : decode 0x10C00000061 = .ok (.wrSeedData 0x61) := by decide
theorem test_decode_rdOutData : decode 0x01000000000 = .ok .rdOutData := by decide
theorem test_decode_rdStatus : decode 0x00400000000 = .ok .rdStatus := by decide
theorem test_decode_rdSeedlenLo : decode 0x01400000000 = .ok .rdSeedlenLo := by decide
theorem test_decode_rdSeedlenHi : decode 0x01800000000 = .ok .rdSeedlenHi := by decide
theorem test_decode_rdNblk : decode 0x01C00000000 = .ok .rdNblk := by decide
theorem test_decode_rdOutpos : decode 0x02000000000 = .ok .rdOutpos := by decide
theorem test_decode_rdParam : decode 0x02400000000 = .ok .rdParam := by decide

/-- R91: the data of a read does not count. -/
theorem test_decode_read_ignores_data : decode 0x004FFFFFFFF = .ok .rdStatus := by decide

/-- V110. -/
theorem test_decode_badCommand :
    [0x10000000000, 0x10000000004, 0x100FFFFFFFF].map decode =
      List.replicate 3 (.error .reservedCommand) := by decide

/-- V112, V120. -/
theorem test_decode_badValue :
    [0x10804000000, 0x10C00000100].map decode = List.replicate 2 (.error .reservedValue) := by
  decide

/-- V134, V135. -/
theorem test_decode_illegalAccess :
    [0x00000000000, 0x10400000001, 0x00C00000000, 0x11000000000, 0x12400000000, 0x02800000000,
      0x0FC00000000, 0x00500000000, 0x10A00000000, 0x10D000001FF].map decode =
      List.replicate 10 (.error .illegalAccess) := by decide

theorem test_decodeTableWord :
    decodeTableWord 48 0x10C00000061 = some (.wrSeedData 0x61) ∧
      decodeTableWord 48 0x10000000004 = none := by decide

/-! ## The hash primitive -/

/-- V20 to V27. -/
theorem test_wordFunctions :
    let x : Word64 := 0x0123456789ABCDEF
    let y : Word64 := 0xFEDCBA9876543210
    rotr 1 x = 0x8091A2B3C4D5E6F7 ∧ rotr 8 x = 0xEF0123456789ABCD ∧
    ch x y 0x0F1E2D3C4B5A6978 = 0x0E1C281842502010 ∧
    maj x y 0x0F1E2D3C4B5A6978 = 0x0F1E2D3C4B5A6978 ∧
    bsig0 x = 0xB7C57A100C7EC1AB ∧ bsig1 x = 0x7703112333475567 ∧
    ssig0 x = 0x6F92C77C6C4F1AA1 ∧ ssig1 x = 0x70A3460DBBD4317A := by decide +kernel

/-- V28. -/
theorem test_constants :
    roundConstants.length = 80 ∧ roundConstants[0]? = some 0x428A2F98D728AE22 ∧
      roundConstants[79]? = some 0x6C44198C4A475817 ∧ iv.h0 = 0x6A09E667F3BCC908 ∧
      iv.h7 = 0x5BE0CD19137E2179 := by decide +kernel

/-- The first 80 primes (R127). -/
def primes : List Nat :=
  (List.range 410).filter (fun n =>
    decide (2 ≤ n) && (List.range 21).all (fun d => Nat.ble d 1 || Nat.ble n d || !(n % d == 0)))

/-- R127's formula for every entry of the table: with `q` the whole part of the cube root of the prime
`p`, the number `q * 2^64 + K[t]` is the floor of the cube root of `p * 2^192`. -/
theorem test_constants_formula :
    primes.length = 80 ∧ (primes.zip roundConstants).all (fun (p, k) =>
      (List.range 8).any (fun q =>
        Nat.ble ((q * 2 ^ 64 + k.toNat) ^ 3) (p * 2 ^ 192) &&
          Nat.blt (p * 2 ^ 192) ((q * 2 ^ 64 + k.toNat + 1) ^ 3))) = true := by decide +kernel

/-- The bytes of "abc" (V31). -/
def abc : List Byte := [0x61, 0x62, 0x63]

/-- SHA-512 of "abc" (V31). -/
def abcDigest : List Byte :=
  [0xdd, 0xaf, 0x35, 0xa1, 0x93, 0x61, 0x7a, 0xba, 0xcc, 0x41, 0x73, 0x49, 0xae, 0x20, 0x41, 0x31,
   0x12, 0xe6, 0xfa, 0x4e, 0x89, 0xa9, 0x7e, 0xa2, 0x0a, 0x9e, 0xee, 0xe6, 0x4b, 0x55, 0xd3, 0x9a,
   0x21, 0x92, 0x99, 0x2a, 0x27, 0x4f, 0xc1, 0xa8, 0x36, 0xba, 0x3c, 0x23, 0xa3, 0xfe, 0xeb, 0xbd,
   0x45, 0x4d, 0x44, 0x23, 0x64, 0x3c, 0xe8, 0x0e, 0x2a, 0x9a, 0xc9, 0x4f, 0xa5, 0x4c, 0xa4, 0x9f]

/-- `blk[0]` of the seed "password" (X1). -/
def passwordBlk0 : List Byte :=
  [0xb1, 0x09, 0xf3, 0xbb, 0xbc, 0x24, 0x4e, 0xb8, 0x24, 0x41, 0x91, 0x7e, 0xd0, 0x6d, 0x61, 0x8b,
   0x90, 0x08, 0xdd, 0x09, 0xb3, 0xbe, 0xfd, 0x1b, 0x5e, 0x07, 0x39, 0x4c, 0x70, 0x6a, 0x8b, 0xb9,
   0x80, 0xb1, 0xd7, 0x78, 0x5e, 0x59, 0x76, 0xec, 0x04, 0x9b, 0x46, 0xdf, 0x5f, 0x13, 0x26, 0xaf,
   0x5a, 0x2e, 0xa6, 0xd1, 0x03, 0xfd, 0x07, 0xc9, 0x53, 0x85, 0xff, 0xab, 0x0c, 0xac, 0xbc, 0x86]

/-- `blk[1]` of the seed "password" (X1). -/
def passwordBlk1 : List Byte :=
  [0xe9, 0x0d, 0x1c, 0xe7, 0x2f, 0xb4, 0xea, 0x0f, 0x12, 0xd8, 0xb0, 0xec, 0xfc, 0xe4, 0x28, 0xc9,
   0x43, 0x56, 0x2e, 0x43, 0xda, 0xb3, 0x7a, 0xa8, 0xe4, 0xd5, 0x25, 0x73, 0x7c, 0x69, 0x76, 0x15,
   0x89, 0x80, 0x5f, 0xdc, 0xe2, 0x1a, 0x89, 0xa3, 0x43, 0x9d, 0x44, 0x81, 0x9b, 0xc1, 0xcc, 0x45,
   0xe4, 0xc2, 0x0d, 0xd8, 0xd3, 0xad, 0xf6, 0x4e, 0xf5, 0x64, 0x72, 0xcb, 0x89, 0x50, 0x25, 0x89]

/-- `blk[2]` of the seed "password" (X1). -/
def passwordBlk2 : List Byte :=
  [0x5b, 0x9c, 0x1a, 0xc8, 0xd4, 0x72, 0x33, 0x34, 0x25, 0xa4, 0x19, 0x38, 0x19, 0x56, 0xd6, 0x28,
   0xc1, 0x71, 0x08, 0x95, 0x38, 0x98, 0x63, 0x92, 0x26, 0xf0, 0x14, 0x8b, 0x40, 0x22, 0xda, 0x36,
   0xb4, 0xa6, 0x0e, 0x4b, 0xfd, 0xad, 0x03, 0xd7, 0x0f, 0x58, 0xcd, 0x90, 0xfe, 0x42, 0x85, 0x41,
   0x0c, 0x5c, 0x18, 0xad, 0x62, 0xc1, 0xd4, 0x49, 0x57, 0xc4, 0xc5, 0xe9, 0xbd, 0x57, 0x0e, 0x8e]

/-- The midstate after the first `E_ABSORB` for the seed "password" (R195). -/
def passwordMidstate : Chaining where
    h0 := 0x7A969510794D10F4
    h1 := 0x7968CBFD6C14A87E
    h2 := 0x724C286C307BAC46
    h3 := 0xCC18DF04ADDE02A3
    h4 := 0xD83D8D5A14E3BC8A
    h5 := 0xBD29AD06CFF80E0E
    h6 := 0x5846ED01CAB1BD5D
    h7 := 0xDAE9A71F657C64E2

/-- R129. -/
theorem test_messageSchedule :
    let w := messageSchedule (pad abc)
    w.length = 80 ∧ w[15]? = some 0x18 ∧ w[17]? = some 0x00030000000000C0 ∧
      w[18]? = some 0x0A9699A24C700003 ∧ w[79]? = some 0x92AEEED1A7BCF7D2 := by decide +kernel

/-- V31. -/
theorem test_sha512_abc : sha512 abc = abcDigest := by decide +kernel

/-! ## Small states -/

/-- The contents of a storage that holds `bs` from address 0 on. -/
def memOf (bs : List Byte) : Mem := (List.range bs.length).zip bs

/-- The state of V119: 128 seed bytes in `WBUF`, `E_SEEDBLK` not yet run. -/
def fullBuffer : State :=
  { State.reset with
    wbuf := memOf (List.replicate 128 0x61), wfill := 128, seedlen := 128, blocks := 2 }

/-- The state of V124: the seed "abc" is closed, nothing is hashed yet. -/
def closedAbc : State :=
  { State.reset with phase := .pad, wbuf := memOf abc, wfill := 3, seedlen := 3, blocks := 1 }

/-- The end of P1 before anything is read: one block of "abc". -/
def doneAbc : State :=
  { State.reset with
    phase := .done, wbuf := memOf abc, seedlen := 3, blocks := 1, nblk := 1
    hs := compress iv (pad abc), ms := iv, acc := memOf abcDigest }

/-- The state of V162: the seed "password", two blocks of four, none absorbed. -/
def chainTwo : State :=
  { State.reset with
    phase := .chain, seedlen := 8, blocks := 4, nblk := 2, ms := iv
    acc := memOf (passwordBlk0 ++ passwordBlk1) }

/-- The state of V161: the seed "password", one block of four. -/
def chainOne : State := { chainTwo with nblk := 1, acc := memOf passwordBlk0 }

/-- The state of V163: the first pair is absorbed. -/
def chainAbsorbed : State := { chainTwo with nabs := 1, ms := passwordMidstate }

/-- The states of V127: "password" with 1026 blocks, as far as the three bytes read there. -/
def atCap (outpos : BitVec 32) : State :=
  { State.reset with
    phase := .done, blocks := 1026, nblk := 1024, nabs := 511, outpos := outpos
    acc := [(0, 0xB1), (1, 0x09), (65535, 0x21)] }

/-- A next state has a property. -/
def after (o : Host.Outcome State Fault Refusal) (p : State → Bool) : Bool :=
  match o with
  | .next t => p t
  | .fault _ => false
  | .refused _ => false

/-! ## One transaction each (V100 to V136) -/

/-- V100. -/
theorem test_init :
    after (exec .init { doneAbc with outpos := 64, err := true, errcode := 6 }) (fun t =>
      t.statusWord == 0x10 && t.blocks == 0 && t.outpos == 0 && t.nblk == 0 && t.seedlen == 0 &&
      t.hs == iv && t.response == .ok) = true := by decide +kernel
/-- V101. -/
theorem test_init_busy :
    after (exec .init chainTwo) (fun t => t == { chainTwo with
      err := true, errcode := 4, response := .err .seq }) = true := by decide +kernel
/-- V103. -/
theorem test_start_noBlocks :
    after (exec .start State.reset) (fun t =>
      t.response == .err .badLen && t.statusWord == 0x590) = true := by decide +kernel
/-- V105. -/
theorem test_start_fullBuffer :
    after (exec .start fullBuffer) (fun t =>
      t.phase == .pad && t.wfill == 128 && enabledStep t == some .seedBlk) = true := by
  decide +kernel
/-- V107. -/
theorem test_rewind_seed :
    after (exec .rewind State.reset) (fun t => t.response == .err .seq) = true := by decide +kernel
/-- V108. -/
theorem test_rewind :
    (atCap 65664).statusWord = 0x104B ∧
      after (exec .rewind (atCap 65664)) (fun t => t.outpos == 0 && t.statusWord == 0x2B) = true := by
  decide +kernel
/-- V111. -/
theorem test_wrBlocks_largest :
    after (exec (.wrBlocks 0x03FFFFFF) State.reset) (fun t =>
      t.response == .ok && t.blocks.toNat == 67108863) = true := by decide +kernel
/-- V115: the value check comes first. -/
theorem test_wrBlocks_order :
    after (exec (.wrBlocks 0x04000000) doneAbc) (fun t => t.response == .err .badVal) = true := by
  decide +kernel
/-- V116. -/
theorem test_rdBlocks :
    after (exec .rdBlocks (atCap 0)) (fun t => t.response == .okRead 0x402) = true := by
  decide +kernel
/-- V117. -/
theorem test_wrSeedData :
    after (exec (.wrSeedData 0x61) State.reset) (fun t =>
      t.response == .ok && t.wbuf.read 0 == some 0x61 && t.wfill == 1 && t.seedlen == 1) = true := by
  decide +kernel
/-- V119, and V122 from a constructed state. -/
theorem test_wrSeedData_held :
    after (exec (.wrSeedData 0x80) fullBuffer) (fun t =>
      t == { fullBuffer with response := .held }) = true ∧
    after (exec (.wrSeedData 0) { State.reset with wfill := 127, seedlen := BitVec.allOnes 64 })
      (fun t => t.response == .err .seedOvf && t.errcode == 7) = true := by decide +kernel
/-- V124, V126. -/
theorem test_rdOutData_held_and_underrun :
    after (exec .rdOutData closedAbc) (fun t => t.response == .held) = true ∧
    after (exec .rdOutData { doneAbc with outpos := 64 }) (fun t =>
      t.response == .err .underrun && t.outpos == 64 && t.statusWord == 0x6CB) = true := by
  decide +kernel
/-- V127. -/
theorem test_rdOutData_cap :
    after (exec .rdOutData (atCap 65535)) (fun t =>
      t.response == .okRead 0x21 && t.outpos == 65536) = true ∧
    after (exec .rdOutData (atCap 65536)) (fun t => t.response == .okRead 0xB1) = true ∧
    after (exec .rdOutData (atCap 65537)) (fun t => t.response == .okRead 0x09) = true := by
  decide +kernel
/-- Section 4 of the test vectors. -/
theorem test_rdStatus :
    State.reset.statusWord = 0x10 ∧ { fullBuffer with blocks := 1 }.statusWord = 0x00 ∧
    closedAbc.statusWord = 0x05 ∧ { chainOne with blocks := 3 }.statusWord = 0x26 ∧
    { chainOne with blocks := 3, outpos := 64 }.statusWord = 0x06 ∧ doneAbc.statusWord = 0x2B ∧
    { doneAbc with outpos := 64 }.statusWord = 0x4B ∧ (atCap 65536).statusWord = 0x102B ∧
    { doneAbc with err := true, errcode := 5 }.statusWord = 0x5AB ∧
    { atCap 65664 with err := true, errcode := 6 }.statusWord = 0x16CB := by decide +kernel
/-- V130. -/
theorem test_rdSeedlen :
    after (exec .rdSeedlenLo { State.reset with seedlen := 0x0000000100000003 })
      (fun t => t.response == .okRead 3) = true ∧
    after (exec .rdSeedlenHi { State.reset with seedlen := 0x0000000100000003 })
      (fun t => t.response == .okRead 1) = true := by decide +kernel
/-- V131, V132, V133. -/
theorem test_rdCounters :
    after (exec .rdNblk (atCap 0)) (fun t => t.response == .okRead 0x400) = true ∧
    after (exec .rdOutpos (atCap 65664)) (fun t => t.response == .okRead 0x10080) = true ∧
    after (exec .rdParam State.reset) (fun t => t.response == .okRead 0x01000400) = true := by
  decide +kernel
/-- V136. -/
theorem test_error_sticks :
    after (exec .rdOutData { doneAbc with outpos := 64, err := true, errcode := 4 }) (fun t =>
      t.response == .err .underrun && t.errcode == 4) = true := by decide +kernel

/-! ## The engine (V150 to V166) -/

/-- V151, V124. -/
theorem test_seedFinal :
    after (engineTurn closedAbc) (fun t => t.phase == .done && t.nblk == 1 && t.nabs == 0 &&
      t.ms == iv && t.acc == memOf abcDigest && t.wfill == 0) = true := by decide +kernel
/-- V156: `E_SEEDBLK`, then `E_SEEDFINAL`; the digest is V40's. -/
theorem test_seedBlk :
    after (engineRun 2 { fullBuffer with phase := .pad, blocks := 1 }) (fun t =>
      t.phase == .done && t.acc.read 0 == some 0xB7 && t.acc.read 1 == some 0x3D &&
      t.acc.read 62 == some 0xF3 && t.acc.read 63 == some 0x21) = true := by decide +kernel
/-- V153: `E_PAD1`, then `E_SEEDFINAL`; the digest is V35's. -/
theorem test_pad1 :
    after (engineRun 2 { State.reset with
      phase := .pad, blocks := 1, wbuf := memOf (List.replicate 112 0x61), wfill := 112
      seedlen := 112 }) (fun t =>
      t.phase == .done && !t.pad80 && t.acc.read 0 == some 0xC0 && t.acc.read 1 == some 0x1D &&
      t.acc.read 62 == some 0x70 && t.acc.read 63 == some 0xCA) = true := by decide +kernel
/-- V161. -/
theorem test_final_odd :
    after (engineTurn chainOne) (fun t => t.acc == memOf (passwordBlk0 ++ passwordBlk1) &&
      t.nblk == 2 && t.ms == iv && t.phase == .chain) = true := by decide +kernel
/-- V162. -/
theorem test_absorb :
    after (engineTurn chainTwo) (fun t =>
      t == { chainTwo with ms := passwordMidstate, nabs := 1 }) = true := by decide +kernel
/-- V163. -/
theorem test_final_even :
    after (engineTurn chainAbsorbed) (fun t =>
      t.acc == memOf (passwordBlk0 ++ passwordBlk1 ++ passwordBlk2) && t.nblk == 3) = true := by
  decide +kernel
/-- V166. -/
theorem test_idle_engine :
    enabledStep doneAbc = none ∧ enabledStep State.reset = none := by decide +kernel

/-! ## The step, and the first instruction after reset -/

/-- R91: the number of a transaction word runs as that transaction. -/
theorem test_withFetchWord :
    after (step (State.reset.withFetchWord 48 0x10800000402)) (fun t =>
      t.blocks == 1026 && t.response == .ok && t.bus == none && t.schedule == []) = true ∧
    after (step (State.reset.withFetchWord 48 0x00500000000)) (fun t =>
      t.response == .err .access) = true := by decide +kernel

/-- R281: reset discards an outstanding transaction without a response. -/
theorem test_reset_turn :
    after (step { doneAbc with bus := some ⟨false, 0x10, 0⟩, schedule := [.reset] }) (fun t =>
      t.bus == none && t.response == .idle && t.statusWord == 0x10) = true := by decide +kernel

theorem test_reset_memory :
    Mem.wf 65536 State.reset.acc = true ∧ Mem.wf 128 State.reset.wbuf = true := by decide

/-! ## The software around the block -/

/-- R228, R106: `SEED "password"` and `EXPAND 1026` (P3, P4). -/
theorem test_pseudo :
    (Pseudo.expansion (.seedText "password")).head? =
      some (.txn (TWord.toReq 0x10C00000070)) ∧
    (Pseudo.expansion (.seedText "password")).length = 8 ∧
    Pseudo.expansion (.expandBlocks 1026) =
      [.txn (TWord.toReq 0x10800000402), .txn (TWord.toReq 0x10000000002)] := by decide +kernel

/-- R106, R254: an operand of `SEEDHEX` above `0xFF` is written as it stands, and ends in `E_BADVAL`. -/
theorem test_seedHex :
    Pseudo.expansion (.seedHex [0x61, 0x161]) =
      [.txn (TWord.toReq 0x10C00000061), .txn (TWord.toReq 0x10C00000161)] ∧
    after (perform (TWord.toReq 0x10C00000161) State.reset) (fun t =>
      t.response == .err .badVal) = true := by decide +kernel

/-- R229: a read that breaks off after "ab" is abandoned with `INIT`, and is no seed. -/
theorem test_streamFile :
    streamFile (.brokenOff [0x61, 0x62]) =
      [.txn (TWord.toReq 0x10C00000061), .txn (TWord.toReq 0x10C00000062),
        .txn (TWord.toReq 0x10000000001)] ∧
    streamFile (.contents [0x61]) = [.txn (TWord.toReq 0x10C00000061)] ∧
    fromFile (.brokenOff [0x61, 0x62]) = .error .ioError := by decide +kernel

/-- V72. -/
theorem test_sequenceLength :
    [0, 4, 9, 255, 256, 257, 1000, 65535, 65536].map sequenceLength =
      [0, 64, 128, 65088, 65536, 66112, 1000000, 4294836288, 4294967296] := by decide +kernel

/-- V73 in small: equal values keep the order of their indices (R225, R226). -/
theorem test_sortedIndices :
    sortedIndices [0, 1, 2, 3, 0, 1, 2, 3] = [0, 4, 1, 5, 2, 6, 3, 7] := by decide +kernel

/-- V70. -/
theorem test_build_tooShort : build [0x70] 4 = .error .rangeError := by decide +kernel

/-! ## Witnesses: values that meet the hypotheses of each statement -/

theorem doneAbc_consistent : doneAbc.Consistent := by constructor <;> decide +kernel
theorem closedAbc_consistent : closedAbc.Consistent := by constructor <;> decide +kernel
theorem fullBuffer_consistent : fullBuffer.Consistent := by constructor <;> decide +kernel
theorem chainOne_consistent : chainOne.Consistent := by constructor <;> decide +kernel
theorem chainTwo_consistent : chainTwo.Consistent := by constructor <;> decide +kernel
theorem chainAbsorbed_consistent : chainAbsorbed.Consistent := by constructor <;> decide +kernel

theorem doneAbc_computes : doneAbc.Computes abc where
  length_eq := by decide +kernel
  open_seed := by intro h; exact absurd h (by decide +kernel)
  half_padded := by intro h; exact absurd h (by decide +kernel)
  acc_blocks := by
    intro _ a ha
    show doneAbc.acc.read a = (sha512 abc)[a]?
    rw [test_sha512_abc]
    revert a
    decide +kernel
  midstate := by intro _; rfl

theorem closedAbc_computes : closedAbc.Computes abc where
  length_eq := by decide +kernel
  open_seed := by
    intro _
    exact ⟨[], abc, rfl, rfl, rfl, rfl, by decide +kernel⟩
  half_padded := by intro _ h; exact absurd h (by decide +kernel)
  acc_blocks := by intro h; exact absurd h (by decide +kernel)
  midstate := by intro h; exact absurd h (by decide +kernel)

/-- The contents of a storage whose first `n` bytes have been written. -/
def filled (n : Nat) : Mem := Mem.writeBytes [] 0 (List.replicate n 0xB1)

theorem filled_written (n : Nat) : ∀ a < n, ((filled n).read a).isSome = true := by
  intro a ha
  have h : a < (List.replicate n (0xB1 : Byte)).length := by rw [List.length_replicate]; exact ha
  have hr := Mem.read_writeBytes_inside [] (List.replicate n (0xB1 : Byte)) 0 h
  rw [Nat.zero_add, List.getElem?_eq_getElem h] at hr
  rw [filled, hr]; rfl

theorem filled_wf (n : Nat) : (filled n).wf n = true :=
  Mem.wf_writeBytes [] _ (by rw [List.length_replicate, Nat.zero_add]) rfl

/-- The accumulator with every byte written. -/
@[irreducible] def fullAcc : Mem := filled 65536

theorem fullAcc_written : ∀ a < 65536, (fullAcc.read a).isSome = true := by
  unfold fullAcc; exact filled_written 65536

theorem fullAcc_wf : fullAcc.wf 65536 = true := by unfold fullAcc; exact filled_wf 65536

/-- A state in the fallback regime, with every byte of `ACC` written. -/
def pastCap : State :=
  { State.reset with
    phase := .done, seedlen := 8, blocks := 1026, nblk := 1024, nabs := 511, outpos := 65536
    acc := fullAcc }

theorem pastCap_consistent : pastCap.Consistent where
  wfill_le := by decide +kernel
  wfill_mod := by intro h; exact absurd h (by decide +kernel)
  wfill_full := by intro h; exact absurd h (by decide +kernel)
  nblk_zero := by intro h; exact absurd h (by decide +kernel)
  done_iff := by decide +kernel
  chain_lt := by intro h; exact absurd h (by decide +kernel)
  blocks_pos := by decide +kernel
  outpos_le := by decide +kernel
  outpos_zero := by intro h; exact absurd h (by decide +kernel)
  outpos_exists := .inr (by decide +kernel)
  pad80_pad := by intro h; exact absurd h (by decide +kernel)
  nabs_eq := by decide +kernel
  errcode_zero := by decide +kernel
  errcode_le := by decide +kernel
  wbuf_written := by decide +kernel
  acc_written := fullAcc_written
  wbuf_wf := by decide +kernel
  acc_wf := fullAcc_wf

/-- The state before the last `E_ABSORB` there can be, the host not having read anything. -/
def lastAbsorb : State :=
  { pastCap with phase := .chain, nblk := 1022, nabs := 510, outpos := 0 }

theorem lastAbsorb_consistent : lastAbsorb.Consistent where
  wfill_le := by decide +kernel
  wfill_mod := by intro h; exact absurd h (by decide +kernel)
  wfill_full := by intro h; exact absurd h (by decide +kernel)
  nblk_zero := by intro h; exact absurd h (by decide +kernel)
  done_iff := by decide +kernel
  chain_lt := by decide +kernel
  blocks_pos := by decide +kernel
  outpos_le := by decide +kernel
  outpos_zero := by intro h; exact absurd h (by decide +kernel)
  outpos_exists := .inl (by decide +kernel)
  pad80_pad := by intro h; exact absurd h (by decide +kernel)
  nabs_eq := by decide +kernel
  errcode_zero := by decide +kernel
  errcode_le := by decide +kernel
  wbuf_written := by decide +kernel
  acc_written := fun a ha => fullAcc_written a (Nat.lt_trans ha (by decide +kernel))
  wbuf_wf := by decide +kernel
  acc_wf := fullAcc_wf

/-- The seed "abc" with two blocks to make, the first of them made: another block count than
`doneAbc`'s. -/
def chainAbc : State := { doneAbc with phase := .chain, blocks := 2 }

theorem chainAbc_consistent : chainAbc.Consistent := by constructor <;> decide +kernel

theorem chainAbc_computes : chainAbc.Computes abc where
  length_eq := by decide +kernel
  open_seed := by intro h; exact absurd h (by decide +kernel)
  half_padded := by intro h; exact absurd h (by decide +kernel)
  acc_blocks := fun _ => doneAbc_computes.acc_blocks (.inr rfl)
  midstate := by intro _; rfl

/-- The state between the two padding blocks of a 112-byte seed (R193). -/
def halfPadded : State :=
  { State.reset with
    phase := .pad, pad80 := true, seedlen := 112, blocks := 1
    wbuf := memOf (List.replicate 112 0x61) }

theorem halfPadded_consistent : halfPadded.Consistent := by constructor <;> decide +kernel

theorem witness_DecodeInvertsEncode :
    (Instr.wrBlocks 0).wellFormed = true ∧ (Instr.wrBlocks 0x03FFFFFF).wellFormed = true ∧
      (Instr.wrSeedData 0xFF).wellFormed = true ∧ Instr.init.wellFormed = true := by decide

theorem witness_DecodedWordMatchesItsRow :
    decode 0x10803FFFFFF = .ok (.wrBlocks 0x03FFFFFF) ∧
      decode 0x10C000000FF = .ok (.wrSeedData 0xFF) := by decide

/-- No row matches a reserved command, the clause's other hypothesis. -/
theorem witness_DecodingProcedure_noRow : ∀ i, ¬ MatchesRow 0x10000000004 i := by
  have hb : ¬ MatchesRow 0x10000000004 (.wrBlocks 0) := by decide
  have hs : ¬ MatchesRow 0x10000000004 (.wrSeedData 0) := by decide
  intro i
  cases i
  case wrBlocks => exact hb
  case wrSeedData => exact hs
  all_goals decide

/-- A word for each clause. -/
theorem witness_DecodingProcedure :
    ((0x0FF00000000 : TWord).extractLsb' 32 8).toNat % 4 ≠ 0 ∧
      MatchesRow 0x10803FFFFFF (.wrBlocks 0) ∧ MatchesRow 0x10C000000FF (.wrSeedData 1) ∧
      MatchesRow 0x024FFFFFFFF .rdParam ∧ decode 0x10000000004 = .error .reservedCommand ∧
      decode 0x10804000000 = .error .reservedValue ∧ decode 0x02800000000 = .error .illegalAccess :=
  by decide

/-- One request for each clause, at the edges of each range. -/
theorem witness_IllegalTransactionsRaiseTheirError :
    (0x01 : BitVec 8).toNat % 4 ≠ 0 ∧ (0xFF : BitVec 8).toNat % 4 ≠ 0 ∧
      0x28 ≤ (0x28 : BitVec 8).toNat ∧ 0x28 ≤ (0xFC : BitVec 8).toNat ∧
      (⟨true, 0x24, 0⟩ : BusReq).we = true ∧ (⟨true, 0x24, 0⟩ : BusReq).addr = 0x24 ∧
      (⟨false, 0x0C, 0⟩ : BusReq).we = false ∧ (⟨false, 0x0C, 0⟩ : BusReq).addr = 0x0C ∧
      (⟨true, 0x00, 4⟩ : BusReq).wdata ≠ 1 ∧ (⟨true, 0x00, 4⟩ : BusReq).wdata ≠ 2 ∧
      (⟨true, 0x00, 4⟩ : BusReq).wdata ≠ 3 := by decide

theorem witness_ReservedBitsRaiseBadVal :
    2 ^ 26 ≤ (0x04000000 : Word32).toNat ∧ 2 ^ 26 ≤ (0xFFFFFFFF : Word32).toNat ∧
      2 ^ 8 ≤ (0x100 : Word32).toNat ∧ 2 ^ 8 ≤ (0xFFFFFFFF : Word32).toNat := by decide

/-- A state whose port holds `WR BLOCKS, 1` and whose next turn is `t`. -/
def waiting (t : Turn) : State :=
  { State.reset with bus := some ⟨true, 0x08, 1⟩, schedule := [t] }

/-- The seed "abc" before `START`, with the transaction of a word at the port and `turn` next. -/
def openAbc (t : TWord) (turn : Turn) : State :=
  { closedAbc with phase := .seed, bus := some (TWord.toReq t), schedule := [turn] }

theorem openAbc_computes (t : TWord) (turn : Turn) : (openAbc t turn).Computes abc where
  length_eq := rfl
  open_seed := fun _ => closedAbc_computes.open_seed (.inr ⟨rfl, rfl⟩)
  half_padded := nofun
  acc_blocks := by rintro (h | h) <;> cases h
  midstate := by rintro (h | h) <;> cases h

theorem witness_StepRunsTheDecodedInstruction :
    (waiting .host).bus = some ⟨true, 0x08, 1⟩ ∧
      decode (BusReq.word ⟨true, 0x08, 1⟩) = .ok (.wrBlocks 1) ∧
      (waiting .host).schedule = [.host] ∧ { waiting .host with schedule := [] }.schedule = [] := by
  decide

/-- A state in which the host has `a` to present next. -/
def toPresent (a : HostAction) : State :=
  { State.reset with script := [a], schedule := [.host], response := .okRead 8 }

theorem witness_HostPresentsItsScriptInOrder :
    (toPresent (.waitDone true)).schedule = [.host] ∧ (toPresent (.waitDone true)).bus = none ∧
      (toPresent (.waitDone true)).script = [.waitDone true] ∧
      (toPresent (.waitDone true)).response = .okRead 8 ∧ (8 : Word32).toNat / 8 % 2 = 1 ∧
      (7 : Word32).toNat / 8 % 2 = 0 ∧
      { toPresent (.waitDone true) with response := .idle }.response = .idle ∧
      (toPresent (.waitDone false)).script = [.waitDone false] ∧
      (toPresent (.txn ⟨true, 0x00, 2⟩)).script = [.txn ⟨true, 0x00, 2⟩] := by decide

/-- The three ways an outstanding transaction can go on: it completes, it is held, it is discarded. -/
theorem witness_OutstandingTransactionIsStable :
    after (step (waiting .host)) (fun t => t.bus == none && t.response.ack) = true ∧
      after (step (waiting .engine)) (fun t => t.bus == some ⟨true, 0x08, 1⟩) = true ∧
      after (step (waiting .reset)) (fun t => t.bus == none) = true := by decide +kernel

theorem witness_ResetTurnGivesTheResetValues : (takeTurn (waiting .reset)).1 = .reset := by decide

theorem witness_InitRule :
    (0x10000000001 : TWord) &&& 0x1FFFFFFFFFF = 0x10000000001 ∧ closedAbc.phase = .pad ∧
      chainTwo.phase = .chain ∧ fullBuffer.phase = .seed ∧ doneAbc.phase = .done := by decide

theorem witness_StartRule :
    (0x10000000002 : TWord) &&& 0x1FFFFFFFFFF = 0x10000000002 ∧ doneAbc.phase ≠ .seed ∧
      State.reset.phase = .seed ∧ State.reset.blocks.toNat = 0 ∧
      fullBuffer.phase = .seed ∧ fullBuffer.blocks.toNat ≠ 0 := by decide

theorem witness_RewindRule :
    (0x10000000003 : TWord) &&& 0x1FFFFFFFFFF = 0x10000000003 ∧ fullBuffer.phase = .seed ∧
      doneAbc.phase ≠ .seed ∧ 1 ≤ doneAbc.nblk.toNat ∧ doneAbc.Consistent ∧
      closedAbc.phase = .pad ∧ closedAbc.Consistent :=
  ⟨by decide, by decide, by decide, by decide, doneAbc_consistent, by decide, closedAbc_consistent⟩

theorem witness_WriteBlocksRule :
    (0x10803FFFFFF : TWord) &&& 0x1FFFC000000 = 0x10800000000 ∧
      2 ^ 26 ≤ (0x04000000 : Word32).toNat ∧ (0x03FFFFFF : Word32).toNat < 2 ^ 26 ∧
      doneAbc.phase ≠ .seed ∧ State.reset.phase = .seed := by decide

/-- A state at the last byte of the seed's length counter (V122). -/
def atSeedLimit : State := { State.reset with wfill := 127, seedlen := BitVec.allOnes 64 }

theorem witness_WriteSeedDataRule :
    (0x10C000000FF : TWord) &&& 0x1FFFFFFFF00 = 0x10C00000000 ∧
      2 ^ 8 ≤ (0x100 : Word32).toNat ∧ (0xFF : Word32).toNat < 2 ^ 8 ∧ doneAbc.phase ≠ .seed ∧
      atSeedLimit.phase = .seed ∧ atSeedLimit.seedlen.toNat = 2 ^ 64 - 1 ∧
      { atSeedLimit with seedlen := 2 ^ 64 - 2 }.seedlen.toNat < 2 ^ 64 - 1 ∧
      atSeedLimit.wfill.toNat < 128 ∧ (atSeedLimit.wfill + 1).toNat = 128 ∧
      fullBuffer.phase = .seed ∧ fullBuffer.seedlen.toNat < 2 ^ 64 - 1 ∧
      128 ≤ fullBuffer.wfill.toNat := by decide +kernel

/-- The four clauses, the last one on both sides of the cap. -/
theorem witness_ReadOutDataRule :
    (0x01000000000 : TWord) &&& 0x1FF00000000 = 0x01000000000 ∧ fullBuffer.phase = .seed ∧
      { doneAbc with outpos := 64 }.outpos.toNat = 64 * doneAbc.blocks.toNat ∧
      closedAbc.phase ≠ .seed ∧ closedAbc.outpos.toNat ≠ 64 * closedAbc.blocks.toNat ∧
      ¬ (closedAbc.phase = .chain ∨ closedAbc.phase = .done) ∧
      doneAbc.outpos.toNat < 64 * doneAbc.nblk.toNat ∧ doneAbc.acc.read 0 = some 0xDD ∧
      (atCap 65535).phase = .done ∧ (atCap 65535).outpos.toNat < 64 * (atCap 65535).nblk.toNat ∧
      (atCap 65535).acc.read 65535 = some 0x21 ∧
      (atCap 65536).outpos.toNat < 64 * (atCap 65536).blocks.toNat ∧
      (atCap 65536).nblk.toNat = 1024 ∧ (atCap 65536).acc.read (65536 % 256) = some 0xB1 := by
  decide +kernel

/-- The last clause, at the first byte of the fallback. -/
theorem witness_ReadOutDataRule_fallback :
    pastCap.Consistent ∧ pastCap.phase ≠ .seed ∧ 65536 ≤ pastCap.outpos.toNat ∧
      pastCap.outpos.toNat ≠ 64 * pastCap.blocks.toNat :=
  ⟨pastCap_consistent, by decide +kernel, by decide +kernel, by decide +kernel⟩

/-- A hole for each read: of `RD OUT_DATA` on both sides of the cap, of `E_SEEDBLK`, `E_PAD1` and
`E_SEEDFINAL` at the ends of their ranges, of `E_ABSORB` and of `E_FINAL` at the last byte they read. -/
theorem witness_ReadOfAnUnwrittenCellStops :
    (atCap 2).phase = .done ∧ (atCap 2).outpos.toNat < 64 * (atCap 2).blocks.toNat ∧
      (atCap 2).acc.read 2 = none ∧ (atCap 65538).acc.read (65538 % 256) = none ∧
      { fullBuffer with wbuf := [(0, 0x61)] }.wfill.toNat = 128 ∧
      Mem.read [(0, 0x61)] 1 = none ∧
      (∀ j, j < 1 → (Mem.read [(0, 0x61)] j).isSome = true) ∧
      { closedAbc with wfill := 127 }.wfill.toNat ≤ 128 ∧
      closedAbc.phase = .pad ∧ (memOf abc).read 3 = none ∧ Mem.read [] 0 = none ∧
      chainTwo.phase = .chain ∧ chainTwo.nblk.toNat % 2 = 0 ∧
      chainTwo.nabs.toNat + 1 = chainTwo.nblk.toNat / 2 ∧
      (memOf ((passwordBlk0 ++ passwordBlk1).take 127)).read (128 * chainTwo.nabs.toNat + 127) = none ∧
      (∀ j, j < 127 →
        ((memOf ((passwordBlk0 ++ passwordBlk1).take 127)).read
          (128 * chainTwo.nabs.toNat + j)).isSome = true) ∧
      chainOne.phase = .chain ∧ chainOne.nblk.toNat % 2 = 1 ∧
      chainOne.nabs.toNat = chainOne.nblk.toNat / 2 ∧
      (memOf (passwordBlk0.take 63)).read (64 * (chainOne.nblk.toNat - 1) + 63) = none ∧
      (∀ j, j < 63 →
        ((memOf (passwordBlk0.take 63)).read (64 * (chainOne.nblk.toNat - 1) + j)).isSome = true) := by
  decide +kernel

/-- The state of its last clause. -/
theorem witness_ReadOfAnUnwrittenCellStops_consistent : chainTwo.Consistent := chainTwo_consistent

theorem witness_RegisterReadRules :
    (0x00800000000 : TWord) &&& 0x1FF00000000 = 0x00800000000 ∧
      (0x01400000000 : TWord) &&& 0x1FF00000000 = 0x01400000000 ∧
      (0x01800000000 : TWord) &&& 0x1FF00000000 = 0x01800000000 ∧
      (0x01C00000000 : TWord) &&& 0x1FF00000000 = 0x01C00000000 ∧
      (0x02000000000 : TWord) &&& 0x1FF00000000 = 0x02000000000 ∧
      (0x024FFFFFFFF : TWord) &&& 0x1FF00000000 = 0x02400000000 := by decide

theorem witness_ReadStatusRule :
    (0x004FFFFFFFF : TWord) &&& 0x1FF00000000 = 0x00400000000 := by decide

/-- Consistent states with each of the bits the statement speaks of. -/
theorem witness_ImpossibleStatusWords :
    fullBuffer.Consistent ∧ doneAbc.Consistent ∧ doneAbc.statusWord.getLsbD 3 = true ∧
      chainTwo.Consistent ∧ chainTwo.statusWord.getLsbD 2 = true ∧
      { doneAbc with outpos := 64 }.statusWord.getLsbD 6 = true ∧
      { doneAbc with outpos := 64 }.Consistent := by
  refine ⟨fullBuffer_consistent, doneAbc_consistent, by decide +kernel, chainTwo_consistent,
    by decide +kernel, by decide +kernel, ?_⟩
  constructor <;> decide +kernel

theorem witness_ErrorChangesOnlyTheRecord :
    after (perform ⟨false, 0x28, 0⟩ doneAbc) (fun t => t.response == .err .access) = true ∧
      after (perform ⟨true, 0x00, 2⟩ State.reset) (fun t => t.response == .err .badLen) = true := by
  decide +kernel

/-- `E_SEQ` and its absence, for a well-formed instruction that completes. -/
theorem witness_SequenceErrorsExactly :
    (Instr.wrBlocks 1).wellFormed = true ∧
      after (exec (.wrBlocks 1) doneAbc) (fun t => t.response == .err .seq) = true ∧
      after (exec (.wrBlocks 1) State.reset) (fun t => t.response == .ok) = true := by decide +kernel

theorem witness_OperandErrorsExactly :
    after (exec .start State.reset) (fun t => t.response == .err .badLen) = true ∧
      after (exec .rdOutData { doneAbc with outpos := 64 }) (fun t =>
        t.response == .err .underrun) = true ∧
      after (exec (.wrSeedData 0) atSeedLimit) (fun t => t.response == .err .seedOvf) = true := by
  decide +kernel

theorem witness_ErrorRecordIsSticky :
    after (step { waiting .engine with err := true, errcode := 4 }) (fun t =>
      t.err && t.errcode == 4) = true ∧
    after (step { waiting .host with bus := some ⟨false, 0x00, 0⟩ }) (fun t =>
      t.err && t.errcode == 1) = true := by decide +kernel

/-- Both operations held, and one that is not. -/
theorem witness_HoldsExactly :
    fullBuffer.Consistent ∧ closedAbc.Consistent ∧ (Instr.wrSeedData 0x80).wellFormed = true ∧
      exec (.wrSeedData 0x80) fullBuffer = .next { fullBuffer with response := .held } ∧
      exec .rdOutData closedAbc = .next { closedAbc with response := .held } :=
  ⟨fullBuffer_consistent, closedAbc_consistent, by decide, rfl, rfl⟩

theorem witness_HeldMeansEngineHasAStep :
    fullBuffer.Consistent ∧ (Instr.wrSeedData 0xFF).wellFormed = true ∧
      exec (.wrSeedData 0xFF) fullBuffer = .next { fullBuffer with response := .held } :=
  ⟨fullBuffer_consistent, by decide, rfl⟩

/-- `RD OUT_DATA` is held, the engine steps, and the read completes (V124). -/
theorem witness_HeldTransactionNeverFails :
    closedAbc.Consistent ∧
      exec .rdOutData closedAbc = .next { closedAbc with response := .held } ∧
      after (engineTurn { closedAbc with response := .held }) (fun u =>
        after (exec .rdOutData u) (fun w => w.response == .okRead 0xDD)) = true :=
  ⟨closedAbc_consistent, rfl, by decide +kernel⟩

/-- One instruction for each clause of the frame. -/
theorem witness_HostOperationsFrame :
    after (exec .rdOutData doneAbc) (fun t => t.response == .okRead 0xDD) = true ∧
      after (exec (.wrSeedData 0) State.reset) (fun t => t.response == .ok) = true ∧
      after (exec .init doneAbc) (fun t => t.response == .ok) = true := by decide +kernel

/-- Each of the five changes of `PHASE`. -/
theorem witness_SequencerTransitions :
    after (step { fullBuffer with bus := some ⟨true, 0x00, 2⟩, schedule := [.host] }) (fun t =>
      t.phase == .pad) = true ∧
    after (step { closedAbc with schedule := [.engine] }) (fun t => t.phase == .done) = true ∧
    after (step { chainOne with blocks := 2, schedule := [.engine] }) (fun t =>
      t.phase == .done) = true ∧
    after (step { chainOne with schedule := [.reset] }) (fun t => t.phase == .seed) = true ∧
    after (step { doneAbc with bus := some ⟨true, 0x00, 1⟩, schedule := [.host] }) (fun t =>
      t.phase == .seed) = true := by decide +kernel

theorem witness_SeedIsImmutableAfterStart :
    closedAbc.phase ≠ .seed ∧
      after (step { closedAbc with bus := some ⟨true, 0x0C, 1⟩, schedule := [.host] }) (fun t =>
        t.phase != .seed) = true := by decide +kernel

theorem witness_ExpansionIsMonotone :
    chainOne.Consistent ∧ chainOne.outValid = true ∧
      after (step { chainOne with schedule := [.engine] }) (fun t =>
        t.phase != .seed && t.outpos == chainOne.outpos) = true :=
  ⟨chainOne_consistent, by decide +kernel, by decide +kernel⟩

theorem witness_SeedBlockStep :
    fullBuffer.phase = .seed ∧ fullBuffer.wfill.toNat = 128 ∧
      { fullBuffer with phase := .pad }.phase = .pad ∧
      fullBuffer.seedlen.toNat < 2 ^ 64 - 1 ∧ (0xFF : Word32).toNat < 2 ^ 8 ∧
      (List.replicate 128 (0x61 : Byte)).length = 128 ∧
      ∀ k, k < 128 → fullBuffer.wbuf.read k = (List.replicate 128 (0x61 : Byte))[k]? := by
  decide +kernel

/-- The two ends of the range of `E_PAD1`. -/
theorem witness_FirstPaddingStep :
    (∀ k, k < 112 → (memOf (List.replicate 112 0x61)).read k =
      (List.replicate 112 (0x61 : Byte))[k]?) ∧
    (∀ k, k < 127 → (memOf (List.replicate 127 0x61)).read k =
      (List.replicate 127 (0x61 : Byte))[k]?) ∧
    (112 : BitVec 8).toNat = 112 ∧ (127 : BitVec 8).toNat = 127 ∧ closedAbc.phase = .pad := by
  decide +kernel

/-- With seed bytes, with none, and with the largest number. -/
theorem witness_SeedFinalStep :
    closedAbc.phase = .pad ∧ closedAbc.wfill.toNat ≤ 111 ∧ abc.length = closedAbc.wfill.toNat ∧
      (∀ k, k < closedAbc.wfill.toNat → closedAbc.wbuf.read k = abc[k]?) ∧
      { closedAbc with pad80 := true, wfill := 0 }.wfill.toNat = ([] : List Byte).length ∧
      { closedAbc with wfill := 111 }.wfill.toNat ≤ 111 := by decide +kernel

/-- The hypotheses of its last clause: with a seed, and after `E_PAD1`. -/
theorem witness_SeedFinalStep_seed :
    closedAbc.Consistent ∧ closedAbc.Computes abc ∧ halfPadded.Consistent ∧
      halfPadded.pad80 = true :=
  ⟨closedAbc_consistent, closedAbc_computes, halfPadded_consistent, rfl⟩

theorem witness_AbsorbStep :
    chainTwo.phase = .chain ∧ chainTwo.nblk.toNat % 2 = 0 ∧
      chainTwo.nabs.toNat + 1 = chainTwo.nblk.toNat / 2 ∧
      (passwordBlk0 ++ passwordBlk1).length = 128 ∧
      ∀ k, k < 128 → chainTwo.acc.read (128 * chainTwo.nabs.toNat + k)
        = (passwordBlk0 ++ passwordBlk1)[k]? := by decide +kernel

/-- Its last clause at the smallest `NBLK` and at the largest. -/
theorem witness_AbsorbStep_consistent :
    chainTwo.Consistent ∧ chainTwo.nblk.toNat = 2 ∧ lastAbsorb.Consistent ∧
      lastAbsorb.phase = .chain ∧ lastAbsorb.nblk.toNat = 1022 ∧
      lastAbsorb.nabs.toNat + 1 = lastAbsorb.nblk.toNat / 2 :=
  ⟨chainTwo_consistent, by decide +kernel, lastAbsorb_consistent, rfl, by decide +kernel,
    by decide +kernel⟩

/-- An odd block number and an even one. -/
theorem witness_FinalStep :
    chainOne.phase = .chain ∧ chainOne.nabs.toNat = chainOne.nblk.toNat / 2 ∧
      chainOne.nblk.toNat % 2 = 1 ∧ passwordBlk0.length = 64 ∧
      (∀ k, k < 64 → chainOne.acc.read (64 * (chainOne.nblk.toNat - 1) + k) = passwordBlk0[k]?) ∧
      chainAbsorbed.phase = .chain ∧ chainAbsorbed.nabs.toNat = chainAbsorbed.nblk.toNat / 2 ∧
      chainAbsorbed.nblk.toNat % 2 = 0 := by decide +kernel

/-- The hypotheses of its last clause. -/
theorem witness_FinalStep_seed :
    chainAbc.Consistent ∧ chainAbc.Computes abc ∧ chainAbc.phase = .chain ∧
      chainAbc.nabs.toNat = chainAbc.nblk.toNat / 2 ∧ chainAbc.nblk.toNat % 2 = 1 ∧
      abcDigest.length = 64 ∧
      ∀ k, k < 64 → chainAbc.acc.read (64 * (chainAbc.nblk.toNat - 1) + k) = abcDigest[k]? :=
  ⟨chainAbc_consistent, chainAbc_computes, rfl, by decide +kernel, by decide +kernel,
    by decide +kernel, by decide +kernel⟩

/-- Two names of one step, a busy state, and the two kinds of idle state. -/
theorem witness_EngineIsDeterministic :
    EngineStep.enabled chainOne .final = true ∧ chainOne.Consistent ∧ chainOne.phase = .chain ∧
      doneAbc.phase = .done ∧ State.reset.phase = .seed ∧
      { State.reset with wfill := 127 }.wfill.toNat < 128 :=
  ⟨by decide +kernel, chainOne_consistent, by decide +kernel, by decide +kernel, by decide +kernel,
    by decide +kernel⟩

theorem witness_EngineIgnoresTheHostSide :
    SameEngineView chainTwo { chainTwo with outpos := 5, err := true, errcode := 4 } ∧
      after (engineTurn chainTwo) (fun t => t.nabs == 1) = true :=
  ⟨by constructor <;> decide +kernel, by decide +kernel⟩

theorem witness_OutputReadCommutesWithEngine :
    chainTwo.Consistent ∧ chainTwo.outValid = true ∧ doneAbc.Consistent ∧ doneAbc.outValid = true :=
  ⟨chainTwo_consistent, by decide +kernel, doneAbc_consistent, by decide +kernel⟩

theorem witness_EveryStepKeepsConsistent :
    { chainTwo with schedule := [.engine] }.Consistent ∧
      after (step { chainTwo with schedule := [.engine] }) (fun t => t.nabs == 1) = true := by
  refine ⟨?_, by decide +kernel⟩
  constructor <;> decide +kernel

theorem witness_ConsistentStatesNeverStop : chainAbsorbed.Consistent := chainAbsorbed_consistent

/-- Each cause: an `INIT`, a `WR SEED_DATA`, a reset turn, and a step that changes no seed. -/
theorem witness_EveryStepKeepsComputes :
    ((openAbc 0x10000000001 .host).Consistent ∧ (openAbc 0x10000000001 .host).Computes abc ∧
      (openAbc 0x10000000001 .host).triesNext .init ∧
      after (step (openAbc 0x10000000001 .host)) (fun t => t.response == .ok) = true) ∧
    ((openAbc 0x10C000000FF .host).Consistent ∧ (openAbc 0x10C000000FF .host).Computes abc ∧
      (openAbc 0x10C000000FF .host).triesNext (.wrSeedData 0xFF) ∧
      after (step (openAbc 0x10C000000FF .host)) (fun t => t.response == .ok) = true) ∧
    ((openAbc 0 .reset).Consistent ∧ (openAbc 0 .reset).Computes abc ∧
      (takeTurn (openAbc 0 .reset)).1 = .reset) ∧
    ({ closedAbc with schedule := [.engine] }.Consistent ∧
      { closedAbc with schedule := [.engine] }.Computes abc ∧
      (takeTurn { closedAbc with schedule := [.engine] }).1 = .engine ∧
      after (step { closedAbc with schedule := [.engine] }) (fun t => t.nblk == 1) = true) :=
  ⟨⟨by constructor <;> decide +kernel, openAbc_computes _ _, ⟨by decide, _, rfl, by decide⟩,
      by decide +kernel⟩,
    ⟨by constructor <;> decide +kernel, openAbc_computes _ _, ⟨by decide, _, rfl, by decide⟩,
      by decide +kernel⟩,
    ⟨by constructor <;> decide +kernel, openAbc_computes _ _, by decide⟩,
    ⟨by constructor <;> decide +kernel,
      { length_eq := closedAbc_computes.length_eq
        open_seed := closedAbc_computes.open_seed
        half_padded := closedAbc_computes.half_padded
        acc_blocks := closedAbc_computes.acc_blocks
        midstate := closedAbc_computes.midstate },
      by decide, by decide +kernel⟩⟩

theorem witness_OutDataReturnsTheExpandedStream :
    doneAbc.Consistent ∧ doneAbc.Computes abc ∧ doneAbc.outValid = true :=
  ⟨doneAbc_consistent, doneAbc_computes, by decide +kernel⟩

theorem witness_EngineReachesDone :
    closedAbc.Consistent ∧ closedAbc.phase = .pad ∧
      0 < seedStepsLeft closedAbc + chainSteps (min closedAbc.blocks.toNat 1024) :=
  ⟨closedAbc_consistent, by decide +kernel, by decide +kernel⟩

/-- Lengths at the two sides of the boundary. -/
theorem witness_PaddingLength :
    (List.replicate 111 (0x61 : Byte)).length % 128 ≤ 111 ∧
      112 ≤ (List.replicate 112 (0x61 : Byte)).length % 128 := by decide +kernel

theorem witness_PrefixLaw : (passwordBlk0 ++ passwordBlk1).length % 128 = 0 := by
  decide +kernel

theorem witness_ExpandIsTheHashChain :
    1 ≤ 1030 ∧ 1 ≤ 1023 ∧ 1023 < min 1030 1024 ∧ 65536 ≤ 65919 ∧ 65919 < 64 * 1030 ∧
      1024 ≤ 1029 := by decide

theorem witness_ExpandPrefixStability :
    1 ≤ 1 ∧ 1 ≤ 1030 ∧ doneAbc.Consistent ∧ chainAbc.Consistent ∧ doneAbc.Computes abc ∧
      chainAbc.Computes abc ∧ doneAbc.outValid = true ∧ chainAbc.outValid = true ∧
      doneAbc.outpos = chainAbc.outpos :=
  ⟨by decide, by decide, doneAbc_consistent, chainAbc_consistent, doneAbc_computes,
    chainAbc_computes, by decide +kernel, by decide +kernel, rfl⟩

theorem witness_SequenceLengthFormula : 64 ∣ 128 ∧ 9 ^ 2 ≤ 128 := by decide

theorem witness_PermutationIsASortedBijection :
    65536 ≤ (List.replicate 65536 (0x5A : Byte)).length := by
  rw [List.length_replicate]

/-- Both ends of the range of `build`, and both sides next to it. -/
theorem witness_BuildRangeErrors :
    255 ≤ 255 ∧ 65536 ≤ 65536 ∧ 256 ≤ 256 ∧ 65535 ≤ 65535 ∧ buildInRange 255 = false ∧
      buildInRange 256 = true ∧ buildInRange 65535 = true ∧ buildInRange 65536 = false := by
  decide +kernel

theorem witness_InterleavedReadsReturnTheStream :
    closedAbc.Consistent ∧ closedAbc.Computes abc ∧ closedAbc.phase ≠ .seed ∧
      Turn.reset ∉ [Turn.host, .engine, .host, .host] ∧
      (readRun [Turn.host, .engine, .host, .host] closedAbc).map Prod.fst = some [0xDD, 0xAF] :=
  ⟨closedAbc_consistent, closedAbc_computes, by decide +kernel, by decide, by decide +kernel⟩

theorem witness_MessageScheduleRecurrence : 15 < 16 ∧ 16 ≤ 16 ∧ 16 ≤ 79 ∧ 79 < 80 := by decide

theorem witness_FailedFileReadAbandonsTheSeed :
    FileRead.brokenOff [] ≠ .contents [] ∧ (∀ bs, FileRead.notOpened ≠ .contents bs) ∧
      (∀ bs, FileRead.brokenOff [0x61] ≠ .contents bs) ∧ fullBuffer.phase = .seed :=
  ⟨nofun, nofun, nofun, by decide⟩

/-- The smallest and the largest length that `build` takes. -/
theorem witness_BuildIssuesTheTransactions :
    256 ≤ 256 ∧ 65535 ≤ 65535 ∧ sequenceLength 65535 / 64 = 67106817 := by decide +kernel


end Sys2Proof.Machine.Tests
end

section
/-! The rows of the opcode table, field by field (spec/30_encoding.md R91), and the decoder against
them (R104). -/

namespace Sys2Proof

/-- A masked word equals a third exactly if each of its three fields does (R91). -/
theorem TWord.and_eq_iff (t m v : TWord) :
    t &&& m = v ↔
      (TWord.w t && TWord.w m) = TWord.w v ∧ TWord.addr t &&& TWord.addr m = TWord.addr v ∧
        TWord.data t &&& TWord.data m = TWord.data v := by
  rw [← TWord.w_and, ← TWord.addr_and, ← TWord.data_and]
  constructor
  · rintro rfl
    exact ⟨rfl, rfl, rfl⟩
  · rintro ⟨hw, ha, hd⟩
    rw [← TWord.word_toReq (t &&& m), ← TWord.word_toReq v]
    unfold TWord.toReq
    rw [hw, ha, hd]

/-- A mask that keeps the bits from `k` on leaves 0 exactly of the values below `2 ^ k`. -/
theorem and_highMask_eq_zero_iff {n : Nat} (d : BitVec n) (k : Nat) :
    d &&& (BitVec.allOnes n <<< k) = 0 ↔ d.toNat < 2 ^ k := by
  have hle : d.toNat / 2 ^ k * 2 ^ k < 2 ^ n := (Nat.div_mul_le_self _ _).trans_lt d.isLt
  rw [← BitVec.shiftLeft_ushiftRight, ← BitVec.toNat_inj, BitVec.toNat_shiftLeft,
    BitVec.toNat_ushiftRight, Nat.shiftRight_eq_div_pow, Nat.shiftLeft_eq, Nat.mod_eq_of_lt hle]
  simp [Nat.div_eq_zero_iff]

/-- An offset is a multiple of 4 exactly if its two low bits are 0 (R67). -/
theorem extractLsb'_two_eq_zero_iff (a : BitVec 8) :
    a.extractLsb' 0 2 = 0 ↔ a.toNat % 4 = 0 := by
  rw [← BitVec.toNat_inj]
  simp

/-! ## What a row asks of a word -/

/-- What the row of an instruction asks of `DATA`: the code of a command (R94), the reserved bits of
an operand (R96, R97), nothing for a read (R91). -/
def Instr.RowData : Instr → Word32 → Prop
  | .init, d => d = 1
  | .start, d => d = 2
  | .rewind, d => d = 3
  | .wrBlocks _, d => blocksDataLegal d = true
  | .wrSeedData _, d => seedDataLegal d = true
  | _, _ => True

/-- The instruction of the same row whose operand, if it has one, is `d`. -/
def Instr.withData : Instr → Word32 → Instr
  | .wrBlocks _, d => .wrBlocks d
  | .wrSeedData _, d => .wrSeedData d
  | i, _ => i

@[simp] theorem rowMask_withData (i : Instr) (d : Word32) :
    rowMask (i.withData d) = rowMask i := by
  cases i <;> rfl

@[simp] theorem rowMatch_withData (i : Instr) (d : Word32) :
    rowMatch (i.withData d) = rowMatch i := by
  cases i <;> rfl

/-- Every row fixes all of `W` and `ADDR`, at the values of the encoding. -/
theorem w_rowMask (i : Instr) : TWord.w (rowMask i) = true := by
  cases i <;> simp only [rowMask] <;> rfl

theorem addr_rowMask (i : Instr) : TWord.addr (rowMask i) = BitVec.allOnes 8 := by
  cases i <;> simp only [rowMask] <;> rfl

theorem w_rowMatch (i : Instr) : TWord.w (rowMatch i) = (encodeReq i).we := by
  cases i <;> simp only [rowMatch, encodeReq] <;> rfl

theorem addr_rowMatch (i : Instr) : TWord.addr (rowMatch i) = (encodeReq i).addr := by
  cases i <;> simp only [rowMatch, encodeReq] <;> rfl

/-- The reserved bits of a `BLOCKS` write, bits 31:26 (R96), are fixed at 0. -/
theorem data_rowMask_wrBlocks (d : Word32) :
    TWord.data (rowMask (.wrBlocks d)) = BitVec.allOnes 32 <<< 26 := by
  simp only [rowMask]
  decide

theorem data_rowMatch_wrBlocks (d : Word32) : TWord.data (rowMatch (.wrBlocks d)) = 0 := by
  simp only [rowMatch]
  decide

/-- The reserved bits of a `SEED_DATA` write, bits 31:8 (R97), are fixed at 0. -/
theorem data_rowMask_wrSeedData (d : Word32) :
    TWord.data (rowMask (.wrSeedData d)) = BitVec.allOnes 32 <<< 8 := by
  simp only [rowMask]
  decide

theorem data_rowMatch_wrSeedData (d : Word32) : TWord.data (rowMatch (.wrSeedData d)) = 0 := by
  simp only [rowMatch]
  decide

/-- The `DATA` part of a row's mask and match is `RowData`. -/
theorem data_and_rowMask_iff (i : Instr) (d : Word32) :
    d &&& TWord.data (rowMask i) = TWord.data (rowMatch i) ↔ i.RowData d := by
  have command (k : Word32) : d &&& BitVec.allOnes 32 = k ↔ d = k := by
    rw [BitVec.and_allOnes]
  have read : d &&& 0 = 0 ↔ True := by simp
  cases i with
  | init => exact command 1
  | start => exact command 2
  | rewind => exact command 3
  | wrBlocks _ =>
    rw [data_rowMask_wrBlocks, data_rowMatch_wrBlocks, and_highMask_eq_zero_iff]
    exact (blocksDataLegal_iff d).symm
  | wrSeedData _ =>
    rw [data_rowMask_wrSeedData, data_rowMatch_wrSeedData, and_highMask_eq_zero_iff]
    exact (seedDataLegal_iff d).symm
  | _ => exact read

/-- A word matches a row exactly if it has the row's direction and offset, and data that the row
takes. -/
theorem matchesRow_iff (t : TWord) (i : Instr) :
    MatchesRow t i ↔
      TWord.w t = (encodeReq i).we ∧ TWord.addr t = (encodeReq i).addr ∧
        i.RowData (TWord.data t) := by
  rw [MatchesRow, TWord.and_eq_iff, w_rowMask, addr_rowMask, Bool.and_true, BitVec.and_allOnes,
    w_rowMatch, addr_rowMatch, data_and_rowMask_iff]

/-! ## The decoder, direction by direction -/

theorem decode_of_misaligned {t : TWord} (h : (TWord.addr t).toNat % 4 ≠ 0) :
    decode t = .error .illegalAccess := by
  rw [Ne, ← extractLsb'_two_eq_zero_iff] at h
  exact if_pos h

theorem decode_of_aligned {t : TWord} (h : (TWord.addr t).toNat % 4 = 0) :
    decode t = if TWord.w t then decodeWrite (TWord.addr t) (TWord.data t)
      else decodeRead (TWord.addr t) := by
  rw [← extractLsb'_two_eq_zero_iff] at h
  exact if_neg (not_not_intro h)

theorem encodeReq_addr_aligned (i : Instr) : (encodeReq i).addr.toNat % 4 = 0 := by
  cases i <;> simp [encodeReq]

/-- The decoder at the direction and offset of a row gives the row's instruction, with the operand
that stands in `DATA`. -/
theorem decode_fields_of_rowData (i : Instr) (d : Word32) (h : i.RowData d) :
    (if (encodeReq i).we then decodeWrite (encodeReq i).addr d
      else decodeRead (encodeReq i).addr) = .ok (i.withData d) := by
  cases i with
  | init => subst h; rfl
  | start => subst h; rfl
  | rewind => subst h; rfl
  | wrBlocks _ => exact if_pos h
  | wrSeedData _ => exact if_pos h
  | _ => rfl

/-- R104: a word that matches a row decodes to the row's instruction. -/
theorem decode_of_matchesRow {t : TWord} {i : Instr} (h : MatchesRow t i) :
    decode t = .ok (i.withData (TWord.data t)) := by
  obtain ⟨hw, ha, hd⟩ := (matchesRow_iff t i).mp h
  rw [decode_of_aligned (ha ▸ encodeReq_addr_aligned i), hw, ha]
  exact decode_fields_of_rowData i _ hd

/-- What a decoded write says of its fields. -/
theorem decodeWrite_eq_ok {a : BitVec 8} {d : Word32} {i : Instr}
    (h : decodeWrite a d = .ok i) :
    (encodeReq i).we = true ∧ (encodeReq i).addr = a ∧ i.RowData d := by
  unfold decodeWrite decodeCommand at h
  split_ifs at h with ha hd hd hd ha hd ha hd <;> cases h
  all_goals exact ⟨rfl, ha.symm, hd⟩

/-- What a decoded read says of its fields. -/
theorem decodeRead_eq_ok {a : BitVec 8} {i : Instr} (h : decodeRead a = .ok i) :
    (encodeReq i).we = false ∧ (encodeReq i).addr = a ∧ ∀ d, i.RowData d := by
  unfold decodeRead at h
  split_ifs at h with ha ha ha ha ha ha ha ha <;> cases h
  all_goals exact ⟨rfl, ha.symm, fun _ => trivial⟩

/-- R104: a word that decodes matches the row of its instruction. -/
theorem matchesRow_of_decode {t : TWord} {i : Instr} (h : decode t = .ok i) : MatchesRow t i := by
  rw [matchesRow_iff]
  by_cases hal : (TWord.addr t).toNat % 4 = 0
  · rw [decode_of_aligned hal] at h
    split at h
    next hw =>
      obtain ⟨hwe, ha, hd⟩ := decodeWrite_eq_ok h
      exact ⟨hw.trans hwe.symm, ha.symm, hd⟩
    next hw =>
      obtain ⟨hwe, ha, hd⟩ := decodeRead_eq_ok h
      exact ⟨((Bool.not_eq_true _).mp hw).trans hwe.symm, ha.symm, hd _⟩
  · rw [decode_of_misaligned hal] at h
    cases h

/-! ## The class of a word that matches no row -/

/-- The last step of R104: the class of a word that is no instruction, by its direction and
offset. -/
def rejectClass (w : Bool) (a : BitVec 8) : Reject :=
  if w = true ∧ a = 0x00 then .reservedCommand
  else if w = true ∧ (a = 0x08 ∨ a = 0x0C) then .reservedValue
  else .illegalAccess

theorem rejectClass_command : rejectClass true 0x00 = .reservedCommand := rfl

theorem rejectClass_value {a : BitVec 8} (h : a = 0x08 ∨ a = 0x0C) :
    rejectClass true a = .reservedValue := by
  rcases h with rfl | rfl <;> rfl

theorem rejectClass_access {w : Bool} {a : BitVec 8}
    (h : w = false ∨ (a ≠ 0x00 ∧ a ≠ 0x08 ∧ a ≠ 0x0C)) : rejectClass w a = .illegalAccess := by
  rcases h with rfl | ⟨h0, h8, hC⟩
  · rfl
  · unfold rejectClass
    rw [if_neg (h0 ·.2), if_neg (·.2.elim h8 hC)]

theorem decodeWrite_eq_error {a : BitVec 8} {d : Word32} {e : Reject}
    (h : decodeWrite a d = .error e) : e = rejectClass true a := by
  unfold decodeWrite decodeCommand at h
  split_ifs at h with h0 _ _ _ h8 _ hC <;> cases h
  · rw [h0, rejectClass_command]
  · rw [rejectClass_value (.inl h8)]
  · rw [rejectClass_value (.inr hC)]
  · rw [rejectClass_access (.inr ⟨h0, h8, hC⟩)]

theorem decodeRead_eq_error {a : BitVec 8} {e : Reject} (h : decodeRead a = .error e) :
    e = rejectClass false a := by
  unfold decodeRead at h
  split_ifs at h
  cases h
  rfl

/-- R104: an aligned word that matches no row is rejected with the class of its direction and
offset. -/
theorem decode_of_no_row {t : TWord} (hal : (TWord.addr t).toNat % 4 = 0)
    (h : ∀ i, ¬ MatchesRow t i) :
    decode t = .error (rejectClass (TWord.w t) (TWord.addr t)) := by
  cases hdec : decode t with
  | ok i => exact absurd (matchesRow_of_decode hdec) (h i)
  | error e =>
    rw [decode_of_aligned hal] at hdec
    split at hdec
    next hw => rw [decodeWrite_eq_error hdec, hw]
    next hw => rw [decodeRead_eq_error hdec, (Bool.not_eq_true _).mp hw]

/-- R104: at most one row matches a word. Every row that matches is the row of what the word decodes
to. -/
theorem matchesRow_unique {t : TWord} {i k : Instr} (hi : MatchesRow t i) (hk : MatchesRow t k) :
    rowMask k = rowMask i ∧ rowMatch k = rowMatch i := by
  have hdec : i.withData (TWord.data t) = k.withData (TWord.data t) :=
    Except.ok.inj ((decode_of_matchesRow hi).symm.trans (decode_of_matchesRow hk))
  have hmask := congrArg rowMask hdec
  have hmatch := congrArg rowMatch hdec
  simp only [rowMask_withData, rowMatch_withData] at hmask hmatch
  exact ⟨hmask.symm, hmatch.symm⟩

/-- Settles O4. A word decodes to an instruction exactly if it matches the instruction's row, so the
clauses are the two directions of that and the class of the words that are left. -/
theorem decodingProcedure : Obligations.DecodingProcedure := by
  intro t
  refine ⟨fun hmis => decode_of_misaligned hmis, fun _ i hrow => ?_, fun hal hnone => ?_,
    fun i k hi hk => matchesRow_unique hi hk⟩
  · exact ⟨i.withData (TWord.data t), decode_of_matchesRow hrow, rowMask_withData i _,
      rowMatch_withData i _⟩
  · have hdec : decode t = .error (rejectClass (t.getLsbD 40) (t.extractLsb' 32 8)) :=
      decode_of_no_row hal hnone
    rw [hdec]
    exact ⟨fun hw ha => by rw [hw, ha, rejectClass_command],
      fun hw ha => by rw [hw, rejectClass_value ha], fun h => by rw [rejectClass_access h]⟩

end Sys2Proof
end

section
/-! Register `STATUS` (spec/30_encoding.md R95): the word as a sum of its fields. -/

namespace Sys2Proof.Machine

/-- A concatenation as a number: the upper part counts `2 ^ n` times. -/
theorem toNat_append_eq_mul_add {m n : Nat} (x : BitVec m) (y : BitVec n) :
    (x ++ y).toNat = 2 ^ n * x.toNat + y.toNat := by
  rw [BitVec.toNat_append, ← Nat.shiftLeft_add_eq_or_of_lt y.isLt, Nat.shiftLeft_eq, Nat.mul_comm]

/-- A number counted where a flag is set is a multiple of the flag's bit. -/
theorem ite_eq_mul_toNat_ofBool (b : Bool) (k : Nat) :
    (if b = true then k else 0) = k * (BitVec.ofBool b).toNat := by
  cases b <;> simp

/-- The fields of `STATUS` at their places (R95). -/
theorem State.statusWord_toNat (s : State) :
    s.statusWord.toNat =
      s.phase.code.toNat + (if s.busy = true then 4 else 0) + (if s.doneFlag = true then 8 else 0)
        + (if s.seedRdy = true then 16 else 0) + (if s.outValid = true then 32 else 0)
        + (if s.outEnd = true then 64 else 0) + (if s.err = true then 128 else 0)
        + 256 * s.errcode.toNat + (if s.fallbackFlag = true then 4096 else 0) := by
  simp only [State.statusWord, toNat_append_eq_mul_add, ite_eq_mul_toNat_ofBool,
    BitVec.ofNat_eq_ofNat, BitVec.toNat_zero]
  omega

/-- Settles O19, with the fields of the word summed and each flag read in propositions. -/
theorem readStatusRule : Obligations.ReadStatusRule := by
  refine ⟨fun t hrow => decode_of_matchesRow (i := .rdStatus) hrow,
    fun s => ⟨s.statusWord, rfl, ?_⟩⟩
  rw [State.statusWord_toNat]
  simp only [State.busy_iff, State.doneFlag_iff, State.seedRdy_iff, State.outValid_iff,
    State.outEnd_iff, State.fallbackFlag_iff]
  cases s.phase <;> rfl

end Sys2Proof.Machine
end

section
/-! The message schedule (spec/40_sha512_primitive.md R129): each word follows from earlier
ones, and adding words changes none that is there. -/

namespace Sys2Proof.Machine

/-- Word `t` of `w` is there and is made from the words 2, 7, 15 and 16 places before it (R129). -/
def FollowsRecurrence (w : List Word64) (t : Nat) : Prop :=
  ∃ w2 w7 w15 w16 : Word64,
    w[t - 2]? = some w2 ∧ w[t - 7]? = some w7 ∧
      w[t - 15]? = some w15 ∧ w[t - 16]? = some w16 ∧
      w[t]? = some (ssig1 w2 + w7 + ssig0 w15 + w16)

/-- A list that continues `w` has the words of `w` at their places. -/
theorem getElem?_of_isPrefix {w w' : List Word64} (hpre : w <+: w') {j : Nat} {x : Word64}
    (h : w[j]? = some x) : w'[j]? = some x := by
  obtain ⟨added, rfl⟩ := hpre
  obtain ⟨hj, -⟩ := List.getElem?_eq_some_iff.mp h
  rw [List.getElem?_append_left hj, h]

/-- A list that continues `w` keeps the recurrence at the words of `w`. -/
theorem FollowsRecurrence.of_isPrefix {w w' : List Word64} {t : Nat} (hpre : w <+: w')
    (h : FollowsRecurrence w t) : FollowsRecurrence w' t := by
  obtain ⟨w2, w7, w15, w16, h2, h7, h15, h16, ht⟩ := h
  exact ⟨w2, w7, w15, w16, getElem?_of_isPrefix hpre h2, getElem?_of_isPrefix hpre h7,
    getElem?_of_isPrefix hpre h15, getElem?_of_isPrefix hpre h16, getElem?_of_isPrefix hpre ht⟩

theorem isPrefix_scheduleStep (w : List Word64) : w <+: scheduleStep w := List.prefix_append _ _

@[simp] theorem scheduleStep_length (w : List Word64) :
    (scheduleStep w).length = w.length + 1 := by simp [scheduleStep]

/-- The word that `scheduleStep` adds is the one of R129. -/
theorem scheduleStep_followsRecurrence {w : List Word64} (h : 16 ≤ w.length) :
    FollowsRecurrence (scheduleStep w) w.length := by
  have old : ∀ k, 0 < k → k ≤ 16 →
      (scheduleStep w)[w.length - k]? = some (w.getD (w.length - k) 0) := by
    intro k hpos hk
    have hlt : w.length - k < w.length := by omega
    simp [scheduleStep, hlt]
  exact ⟨_, _, _, _, old 2 (by decide) (by decide), old 7 (by decide) (by decide),
    old 15 (by decide) (by decide), old 16 (by decide) (by decide), by simp [scheduleStep]⟩

theorem isPrefix_extendSchedule (n : Nat) (w : List Word64) : w <+: extendSchedule n w := by
  induction n generalizing w with
  | zero => exact List.prefix_rfl
  | succ n ih => exact (isPrefix_scheduleStep w).trans (ih _)

@[simp] theorem extendSchedule_length (n : Nat) (w : List Word64) :
    (extendSchedule n w).length = w.length + n := by
  induction n generalizing w with
  | zero => rfl
  | succ n ih => rw [extendSchedule, ih, scheduleStep_length]; omega

/-- Every word that `extendSchedule` adds is the one of R129: the first of them is added by
`scheduleStep` and stays, the others are added after it. -/
theorem extendSchedule_followsRecurrence (n : Nat) {w : List Word64} {t : Nat}
    (h16 : 16 ≤ w.length) (hle : w.length ≤ t) (hlt : t < w.length + n) :
    FollowsRecurrence (extendSchedule n w) t := by
  induction n generalizing w with
  | zero => omega
  | succ n ih =>
    rcases hle.eq_or_lt with rfl | hgt
    · exact (scheduleStep_followsRecurrence h16).of_isPrefix (isPrefix_extendSchedule n _)
    · exact ih (by simp; omega) (by simpa using hgt) (by simp; omega)

@[simp] theorem blockWords_length (b : List Byte) : (blockWords b).length = 16 := by
  simp [blockWords]

theorem blockWords_getElem? (b : List Byte) {t : Nat} (h : t < 16) :
    (blockWords b)[t]? = some (wordBe b t) := by
  simp [blockWords, h]

/-- Settles O49: the schedule continues the words of the block, and every word it adds to them
is the one of R129. -/
theorem messageScheduleRecurrence : Obligations.MessageScheduleRecurrence := by
  intro b
  refine ⟨by simp [messageSchedule], fun t h16 => ?_, fun t h16 h80 => ?_⟩
  · exact getElem?_of_isPrefix (isPrefix_extendSchedule 64 _) (blockWords_getElem? b h16)
  · exact extendSchedule_followsRecurrence 64 (by simp) (by simpa using h16) (by simpa using h80)

end Sys2Proof.Machine
end

section
/-! Padding and absorbing (spec/40_sha512_primitive.md R131, R132, R135, R136). -/

namespace Sys2Proof.Machine

/-! ## The padding (R131) -/

/-- The number of zero bytes of R131: the spec's remainder of an integer that may be negative is the
model's remainder of natural numbers. -/
theorem paddingZeros_eq (len : Nat) :
    ((111 - (len : Int)) % 128).toNat = (111 + 128 - len % 128) % 128 := by omega

/-- The padding as R131 writes it. -/
theorem padding_eq (len : Nat) :
    padding len =
      [0x80] ++ List.replicate ((111 - (len : Int)) % 128).toNat 0 ++ be128 (8 * len) := by
  rw [paddingZeros_eq]
  rfl

/-- `pad` fills the message up to a whole number of message blocks. -/
theorem pad_length (m : List Byte) : (pad m).length = 128 * ((m.length + 17 + 127) / 128) := by
  simp only [pad, padding, List.length_append, List.length_singleton, zeros_length, be128_length]
  omega

/-- Settles O51: the two counts of blocks are the quotient by 128 in `pad_length` on the two sides
of a remainder of 111. -/
theorem paddingLength : Obligations.PaddingLength := by
  intro m
  refine ⟨?_, pad_length m, fun hle => ?_, fun hge => ?_⟩
  · simp only [pad, padding_eq, List.append_assoc]
  · rw [pad_length]; omega
  · rw [pad_length]; omega

/-! ## Absorbing (R132, R135, R136) -/

/-- Absorbing `n` message blocks is the fold of the compression over them: block `q` is the 128
bytes from `128 * q` on (R132). -/
theorem absorbBlocks_eq_foldl (n : Nat) (c : Chaining) (s : List Byte) :
    absorbBlocks n c s =
      (List.range n).foldl (fun c q => compress c ((s.drop (128 * q)).take 128)) c := by
  induction n generalizing c s with
  | zero => rfl
  | succ n ih =>
    rw [absorbBlocks, ih, List.range_succ_eq_map, List.foldl_cons, List.foldl_map]
    simp only [List.drop_drop, Nat.mul_succ, Nat.mul_zero, List.drop_zero, Nat.add_comm]

/-- Settles O50: `absorb` folds over as many message blocks as the padded message has. -/
theorem hashIsTheFoldOverMessageBlocks : Obligations.HashIsTheFoldOverMessageBlocks := by
  intro m
  rw [sha512, absorb, pad_length, Nat.mul_div_cancel_left _ (by decide), absorbBlocks_eq_foldl]

/-- The first `n` message blocks of a string that begins with `n` whole blocks are those blocks; the
chaining value after them does not depend on what follows (R136). -/
theorem absorbBlocks_append (n k : Nat) (c : Chaining) {u : List Byte} (v : List Byte)
    (hu : u.length = 128 * n) :
    absorbBlocks (n + k) c (u ++ v) = absorbBlocks k (absorbBlocks n c u) v := by
  induction n generalizing c u with
  | zero =>
    obtain rfl : u = [] := List.length_eq_zero_iff.mp hu
    rw [Nat.zero_add, List.nil_append, absorbBlocks]
  | succ n ih =>
    have h128 : 128 ≤ u.length := by omega
    rw [Nat.succ_add, absorbBlocks, absorbBlocks, List.take_append_of_le_length h128,
      List.drop_append_of_le_length h128]
    exact ih _ (by rw [List.length_drop]; omega)

/-- Absorbing a block-aligned beginning and then the rest is absorbing the whole string (R136). -/
theorem absorb_append (c : Chaining) {u : List Byte} (v : List Byte) (hu : u.length % 128 = 0) :
    absorb c (u ++ v) = absorb (absorb c u) v := by
  have hlen : u.length = 128 * (u.length / 128) := by omega
  have hsum : (u ++ v).length / 128 = u.length / 128 + v.length / 128 := by
    rw [List.length_append]; omega
  rw [absorb, hsum, absorbBlocks_append _ _ c v hlen, absorb, absorb]

/-- A block-aligned beginning leaves the number of zero bytes of the padding unchanged. -/
theorem paddingZeros_append {u : List Byte} (v : List Byte) (hu : u.length % 128 = 0) :
    ((111 - ((u ++ v).length : Int)) % 128).toNat = ((111 - (v.length : Int)) % 128).toNat := by
  rw [List.length_append]
  omega

/-- Settles O52: `pad (u ++ v)` is `u` and then `v` with the padding of the whole message, and
`absorb` splits there. -/
theorem prefixLaw : Obligations.PrefixLaw := by
  intro u v hu
  rw [sha512, pad, List.append_assoc, absorb_append iv _ hu, padding_eq, paddingZeros_append v hu]
  simp only [List.append_assoc]

end Sys2Proof.Machine
end

section
/-! What a transaction that ends in an error leaves (spec/60_exceptions.md R255), and the transactions
that are no instruction (spec/41_host_operations.md R166, R167). -/

namespace Sys2Proof

/-! ## Directions and offsets without a row -/

theorem encodeReq_addr_lt (i : Instr) : (encodeReq i).addr.toNat < 0x28 := by
  cases i <;> simp [encodeReq]

/-- The offsets that can be written (column `BUSW` of R93). -/
theorem encodeReq_addr_of_write {i : Instr} (h : (encodeReq i).we = true) :
    (encodeReq i).addr = 0x00 ∨ (encodeReq i).addr = 0x08 ∨ (encodeReq i).addr = 0x0C := by
  cases i <;> simp [encodeReq] at h ⊢

/-- The mapped offsets that cannot be read (column `BUSR` of R93). -/
theorem encodeReq_addr_of_read {i : Instr} (h : (encodeReq i).we = false) :
    (encodeReq i).addr ≠ 0x00 ∧ (encodeReq i).addr ≠ 0x0C := by
  cases i <;> simp [encodeReq] at h ⊢

/-- The rows of a write to `CTRL` ask for the codes 1, 2 and 3 (R94). -/
theorem rowData_of_command {i : Instr} {d : Word32} (hw : (encodeReq i).we = true)
    (ha : (encodeReq i).addr = 0x00) (h : i.RowData d) : d = 1 ∨ d = 2 ∨ d = 3 := by
  cases i with
  | init => exact .inl h
  | start => exact .inr (.inl h)
  | rewind => exact .inr (.inr h)
  | wrBlocks _ => simp [encodeReq] at ha
  | wrSeedData _ => simp [encodeReq] at ha
  | _ => cases hw

/-- A word whose direction and offset no row has is an illegal access. A misaligned word is one of
these, since every row's offset is a multiple of 4. -/
theorem decode_of_unmapped {t : TWord}
    (h : ∀ i, TWord.w t = (encodeReq i).we → TWord.addr t ≠ (encodeReq i).addr) :
    decode t = .error .illegalAccess := by
  by_cases hal : (TWord.addr t).toNat % 4 = 0
  · have hnone (i : Instr) : ¬ MatchesRow t i := fun hrow =>
      have ⟨hw, ha, _⟩ := (matchesRow_iff t i).mp hrow
      h i hw ha
    rw [decode_of_no_row hal hnone, rejectClass_access]
    cases hw : TWord.w t with
    | false => exact .inl rfl
    | true => exact .inr ⟨h .init hw, h (.wrBlocks 0) hw, h (.wrSeedData 0) hw⟩
  · exact decode_of_misaligned hal

/-- A write to `CTRL` of another code than those of R94 is a reserved command. -/
theorem decode_of_reserved_command {t : TWord} (hw : TWord.w t = true) (ha : TWord.addr t = 0x00)
    (hd : ¬ (TWord.data t = 1 ∨ TWord.data t = 2 ∨ TWord.data t = 3)) :
    decode t = .error .reservedCommand := by
  have hnone (i : Instr) : ¬ MatchesRow t i := fun hrow =>
    have ⟨hwi, hai, hdi⟩ := (matchesRow_iff t i).mp hrow
    hd (rowData_of_command (hwi.symm.trans hw) (hai.symm.trans ha) hdi)
  rw [decode_of_no_row (by rw [ha]; rfl) hnone, hw, ha, rejectClass_command]

end Sys2Proof

namespace Sys2Proof.Machine

/-! ## The error outcome -/

theorem ErrCode.code_eq_ofNat_number (c : ErrCode) : c.code = BitVec.ofNat 4 c.number := by
  cases c <;> rfl

/-- The operation that raises an error leaves the state that R255 gives. -/
theorem State.raiseErr_eq_errorOutcome (s : State) (c : ErrCode) :
    s.raiseErr c = s.ErrorOutcome c := by
  rw [State.raiseErr, State.ErrorOutcome, ErrCode.code_eq_ofNat_number]

/-- An instruction whose response is an error has done nothing but raise it. -/
theorem exec_eq_raiseErr_of_response {i : Instr} {s t : State} {c : ErrCode}
    (h : exec i s = .next t) (hc : t.response = .err c) : t = s.raiseErr c := by
  obtain ⟨c', rfl⟩ | rfl | ⟨u, r, rfl, rfl | ⟨v, rfl⟩⟩ := exec_next_cases i s t h
  · cases hc; rfl
  all_goals cases hc

/-- Settles O21: an instruction answers an error through `State.raiseErr` alone, and so does a word
that is none. -/
theorem errorChangesOnlyTheRecord : Obligations.ErrorChangesOnlyTheRecord := by
  intro r s t c hrun hc
  rw [← State.raiseErr_eq_errorOutcome]
  cases hdec : decode r.word with
  | ok i =>
    rw [perform_ok r s i hdec] at hrun
    exact exec_eq_raiseErr_of_response hrun hc
  | error e =>
    rw [perform_rejected r s e hdec] at hrun
    cases hrun
    cases hc
    rfl

/-- Settles O5: no row has one of the directions and offsets of R166, and the rows of `CTRL` have the
three codes only. -/
theorem illegalTransactionsRaiseTheirError : Obligations.IllegalTransactionsRaiseTheirError := by
  intro r s
  simp only [← State.raiseErr_eq_errorOutcome]
  refine ⟨fun h => ?_, fun hw ha h1 h2 h3 => ?_⟩
  · refine perform_rejected r s .illegalAccess (decode_of_unmapped fun i hwi hai => ?_)
    rw [BusReq.w_word] at hwi
    rw [BusReq.addr_word] at hai
    rw [hai] at h
    rcases h with hmis | hbeyond | ⟨hwrite, h⟩ | ⟨hread, h⟩
    · exact hmis (encodeReq_addr_aligned i)
    · exact hbeyond.not_gt (encodeReq_addr_lt i)
    · obtain e | e | e := encodeReq_addr_of_write (hwi.symm.trans hwrite) <;> simp [e] at h
    · obtain ⟨h0, hC⟩ := encodeReq_addr_of_read (hwi.symm.trans hread)
      exact h.elim h0 hC
  · refine perform_rejected r s .reservedCommand (decode_of_reserved_command
      (r.w_word.trans hw) (r.addr_word.trans ha) ?_)
    rw [BusReq.data_word]
    rintro (h | h | h)
    · exact h1 h
    · exact h2 h
    · exact h3 h

end Sys2Proof.Machine
end

section
/-! The data ports (spec/41_host_operations.md R156, R158): one equation for each of their outcomes. -/

namespace Sys2Proof.Machine

section

variable {d : Word32} {s : State}

/-! ## The operands -/

theorem blocksDataLegal_eq_false_iff : blocksDataLegal d = false ↔ 2 ^ 26 ≤ d.toNat := by
  rw [← Bool.not_eq_true, blocksDataLegal_iff, not_lt]

theorem seedDataLegal_eq_false_iff : seedDataLegal d = false ↔ 2 ^ 8 ≤ d.toNat := by
  rw [← Bool.not_eq_true, seedDataLegal_iff, not_lt]

theorem blockCount_toNat (hd : d.toNat < 2 ^ 26) : (blockCount d).toNat = d.toNat := by
  rw [blockCount, BitVec.extractLsb'_toNat]
  exact Nat.mod_eq_of_lt hd

theorem seedByte_toNat (hd : d.toNat < 2 ^ 8) : (seedByte d).toNat = d.toNat := by
  rw [seedByte, BitVec.extractLsb'_toNat]
  exact Nat.mod_eq_of_lt hd

/-! ## `WR BLOCKS` -/

theorem execWrBlocks_of_reserved (hd : 2 ^ 26 ≤ d.toNat) :
    execWrBlocks d s = .next (s.ErrorOutcome .badVal) := by
  rw [← blocksDataLegal_eq_false_iff] at hd
  simpa [hd, State.raiseErr_eq_errorOutcome] using execWrBlocks_cases d s

theorem execWrBlocks_of_closed (hd : d.toNat < 2 ^ 26) (hp : s.phase ≠ .seed) :
    execWrBlocks d s = .next (s.ErrorOutcome .seq) := by
  rw [← blocksDataLegal_iff] at hd
  simpa [hd, hp, State.raiseErr_eq_errorOutcome] using execWrBlocks_cases d s

theorem execWrBlocks_of_open (hd : d.toNat < 2 ^ 26) (hp : s.phase = .seed) :
    execWrBlocks d s = .next ({ s with blocks := blockCount d }.complete .ok) := by
  rw [← blocksDataLegal_iff] at hd
  simpa [hd, hp] using execWrBlocks_cases d s

/-! ## `WR SEED_DATA` -/

theorem execWrSeedData_of_reserved (hd : 2 ^ 8 ≤ d.toNat) :
    execWrSeedData d s = .next (s.ErrorOutcome .badVal) := by
  rw [← seedDataLegal_eq_false_iff] at hd
  simpa [hd, State.raiseErr_eq_errorOutcome] using execWrSeedData_cases d s

theorem execWrSeedData_of_closed (hd : d.toNat < 2 ^ 8) (hp : s.phase ≠ .seed) :
    execWrSeedData d s = .next (s.ErrorOutcome .seq) := by
  rw [← seedDataLegal_iff] at hd
  simpa [hd, hp, State.raiseErr_eq_errorOutcome] using execWrSeedData_cases d s

theorem execWrSeedData_of_overflow (hd : d.toNat < 2 ^ 8) (hp : s.phase = .seed)
    (hl : s.seedlen.toNat = 2 ^ 64 - 1) :
    execWrSeedData d s = .next (s.ErrorOutcome .seedOvf) := by
  rw [← seedDataLegal_iff] at hd
  simpa [hd, hp, hl, State.raiseErr_eq_errorOutcome] using execWrSeedData_cases d s

theorem execWrSeedData_of_full (hd : d.toNat < 2 ^ 8) (hp : s.phase = .seed)
    (hl : s.seedlen.toNat < 2 ^ 64 - 1) (hw : 128 ≤ s.wfill.toNat) :
    execWrSeedData d s = .next s.hold := by
  rw [← seedDataLegal_iff] at hd
  simp only [Nat.reducePow, Nat.reduceSub] at hl
  simpa [hd, hp, hl.ne, hw, hw.not_gt] using execWrSeedData_cases d s

theorem execWrSeedData_of_room (hd : d.toNat < 2 ^ 8) (hp : s.phase = .seed)
    (hl : s.seedlen.toNat < 2 ^ 64 - 1) (hw : s.wfill.toNat < 128) :
    execWrSeedData d s = .next ({ s with
      wbuf := s.wbuf.write s.wfill.toNat (seedByte d)
      wfill := s.wfill + 1
      seedlen := s.seedlen + 1 }.complete .ok) := by
  rw [← seedDataLegal_iff] at hd
  simp only [Nat.reducePow, Nat.reduceSub] at hl
  simpa [hd, hp, hl.ne, hw, hw.not_ge] using execWrSeedData_cases d s

theorem seedRdy_eq_false_of_full (hw : s.wfill.toNat = 128) : s.seedRdy = false := by
  rw [← Bool.not_eq_true, State.seedRdy_iff]
  omega

end

/-! ## The two rules -/

/-- Settles O14, one equation for each clause. -/
theorem writeBlocksRule : Obligations.WriteBlocksRule :=
  ⟨fun _ hrow => decode_of_matchesRow (i := .wrBlocks 0) hrow, fun d _ =>
    ⟨execWrBlocks_of_reserved, execWrBlocks_of_closed,
      fun hd hp => ⟨blockCount d, blockCount_toNat hd, execWrBlocks_of_open hd hp⟩⟩⟩

/-- Settles O15, one equation for each clause. In the last one the counters do not wrap, and the byte
written is the only one of `WBUF` that reads differently. -/
theorem writeSeedDataRule : Obligations.WriteSeedDataRule := by
  refine ⟨fun _ hrow => decode_of_matchesRow (i := .wrSeedData 0) hrow, fun d s =>
    ⟨execWrSeedData_of_reserved, execWrSeedData_of_closed, execWrSeedData_of_overflow,
      execWrSeedData_of_full, fun hd hp hl hw => ?_⟩⟩
  have hfill : (s.wfill + 1).toNat = s.wfill.toNat + 1 := by
    simp only [BitVec.toNat_add, BitVec.reduceToNat]
    omega
  have hlen : (s.seedlen + 1).toNat = s.seedlen.toNat + 1 := by
    simp only [BitVec.toNat_add, BitVec.reduceToNat]
    omega
  exact ⟨s.wbuf.write s.wfill.toNat (seedByte d), seedByte d, s.wfill + 1, s.seedlen + 1,
    seedByte_toNat hd, hfill, hlen, execWrSeedData_of_room hd hp hl hw,
    Mem.read_write_same _ _ _, fun _ ha => Mem.read_write_other _ _ ha,
    fun hfull => seedRdy_eq_false_of_full hfull⟩

end Sys2Proof.Machine
end

section
/-! The three commands (spec/41_host_operations.md R153 to R155). -/

namespace Sys2Proof.Machine

/-! ## Two bits of `STATUS` (R95) -/

/-- Bit 2 of `STATUS` is `BUSY` (R95). -/
theorem State.statusWord_getLsbD_two (s : State) : s.statusWord.getLsbD 2 = s.busy := by
  unfold State.statusWord
  rw [BitVec.getLsbD_append, BitVec.getLsbD_append]
  simp

/-- Bit 4 of `STATUS` is `SEED_RDY` (R95). -/
theorem State.statusWord_getLsbD_four (s : State) : s.statusWord.getLsbD 4 = s.seedRdy := by
  unfold State.statusWord
  rw [BitVec.getLsbD_append, BitVec.getLsbD_append, BitVec.getLsbD_append, BitVec.getLsbD_append]
  simp

section

variable {s : State}

/-! ## `INIT` -/

theorem execInit_of_busy (h : s.phase = .pad ∨ s.phase = .chain) :
    execInit s = .next (s.ErrorOutcome .seq) := by
  rw [← State.busy_iff] at h
  simpa [h, State.raiseErr_eq_errorOutcome] using execInit_cases s

theorem execInit_of_idle (h : s.phase = .seed ∨ s.phase = .done) :
    execInit s = .next (s.newExpansion.complete .ok) := by
  have hbusy : s.busy = false := by
    rcases h with h | h <;> simp [State.busy, h]
  simpa [hbusy] using execInit_cases s

theorem State.newExpansion_statusWord (s : State) : s.newExpansion.statusWord = 0x10 := by
  apply BitVec.eq_of_toNat_eq
  rw [State.statusWord_toNat]
  simp [State.busy, State.doneFlag, State.seedRdy, State.outValid, State.outEnd,
    State.fallbackFlag, State.hasStream, Phase.code]

/-- All that an instruction can do to the error record: `INIT` aside, raise an error or leave the
record as it is. -/
theorem exec_next_record_cases {i : Instr} {s t : State} (h : exec i s = .next t) :
    i = .init ∨ (∃ c, t = s.raiseErr c) ∨ (t.err = s.err ∧ t.errcode = s.errcode) := by
  cases i <;> simp only [exec] at h
  case init => exact .inl rfl
  case start =>
    obtain ⟨_, e⟩ | ⟨_, _, e⟩ | ⟨_, _, e⟩ := execStart_cases s <;> rw [e] at h <;> cases h
    · exact .inr (.inl ⟨_, rfl⟩)
    · exact .inr (.inl ⟨_, rfl⟩)
    · exact .inr (.inr ⟨rfl, rfl⟩)
  case rewind =>
    obtain ⟨_, e⟩ | ⟨_, e⟩ := execRewind_cases s <;> rw [e] at h <;> cases h
    · exact .inr (.inl ⟨_, rfl⟩)
    · exact .inr (.inr ⟨rfl, rfl⟩)
  case wrBlocks d =>
    obtain ⟨_, e⟩ | ⟨_, _, e⟩ | ⟨_, _, e⟩ := execWrBlocks_cases d s <;> rw [e] at h <;> cases h
    · exact .inr (.inl ⟨_, rfl⟩)
    · exact .inr (.inl ⟨_, rfl⟩)
    · exact .inr (.inr ⟨rfl, rfl⟩)
  case wrSeedData d =>
    obtain ⟨_, e⟩ | ⟨_, _, e⟩ | ⟨_, _, _, e⟩ | ⟨_, _, _, _, e⟩ | ⟨_, _, _, _, e⟩ :=
      execWrSeedData_cases d s <;> rw [e] at h <;> cases h
    · exact .inr (.inl ⟨_, rfl⟩)
    · exact .inr (.inl ⟨_, rfl⟩)
    · exact .inr (.inl ⟨_, rfl⟩)
    · exact .inr (.inr ⟨rfl, rfl⟩)
    · exact .inr (.inr ⟨rfl, rfl⟩)
  case rdOutData =>
    obtain ⟨_, e⟩ | ⟨_, _, e⟩ | ⟨_, _, _, e⟩ | ⟨v, _, _, _, _, e⟩ | ⟨_, _, _, f, _, e⟩ :=
      execRdOutData_cases s <;> rw [e] at h <;> cases h
    · exact .inr (.inl ⟨_, rfl⟩)
    · exact .inr (.inl ⟨_, rfl⟩)
    · exact .inr (.inr ⟨rfl, rfl⟩)
    · exact .inr (.inr ⟨rfl, rfl⟩)
  all_goals
    cases h
    exact .inr (.inr ⟨rfl, rfl⟩)

/-- `INIT` is the only instruction that clears `ERR`. -/
theorem eq_init_of_clears_err {i : Instr} {s t : State} (h : exec i s = .next t)
    (hs : s.err = true) (ht : t.err = false) : i = .init := by
  obtain hi | ⟨c, rfl⟩ | ⟨herr, _⟩ := exec_next_record_cases h
  · exact hi
  · cases ht
  · rw [herr, hs] at ht
    cases ht

/-! ## `START` -/

theorem execStart_of_closed (hp : s.phase ≠ .seed) :
    execStart s = .next (s.ErrorOutcome .seq) := by
  simpa [hp, State.raiseErr_eq_errorOutcome] using execStart_cases s

theorem execStart_of_no_blocks (hp : s.phase = .seed) (hb : s.blocks.toNat = 0) :
    execStart s = .next (s.ErrorOutcome .badLen) := by
  have hb' : s.blocks = 0 := BitVec.eq_of_toNat_eq hb
  simpa [hp, hb', State.raiseErr_eq_errorOutcome] using execStart_cases s

theorem execStart_of_blocks (hp : s.phase = .seed) (hb : s.blocks.toNat ≠ 0) :
    execStart s = .next ({ s with phase := .pad }.complete .ok) := by
  have hb' : s.blocks ≠ 0#26 := fun h => hb (congrArg BitVec.toNat h)
  simpa [hp, hb'] using execStart_cases s

/-- A full buffer is compressed next, in `SEED` and in `PAD` (R192). -/
theorem enabledStep_of_full (hp : s.phase = .seed ∨ s.phase = .pad) (hw : s.wfill.toNat = 128) :
    enabledStep s = some .seedBlk := by
  have hen : EngineStep.enabled s .seedBlk = true := by
    simpa [EngineStep.enabled, hw] using hp
  exact List.find?_cons_of_pos hen

/-! ## `REWIND` -/

theorem execRewind_of_open (hp : s.phase = .seed) :
    execRewind s = .next (s.ErrorOutcome .seq) := by
  simpa [hp, State.raiseErr_eq_errorOutcome] using execRewind_cases s

theorem execRewind_of_closed (hp : s.phase ≠ .seed) :
    execRewind s = .next ({ s with outpos := 0 }.complete .ok) := by
  simpa [hp] using execRewind_cases s

/-- In `SEED` and `PAD` there is no Digest Block (R39 (a)), so where there is one the stream has begun. -/
theorem State.Consistent.stream_of_nblk_pos (hs : s.Consistent) (hn : 1 ≤ s.nblk.toNat) :
    s.phase = .chain ∨ s.phase = .done := by
  have hzero := hs.nblk_zero
  cases hp : s.phase with
  | seed => have := hzero (.inl hp); omega
  | pad => have := hzero (.inr hp); omega
  | chain => exact .inl rfl
  | done => exact .inr rfl

/-- At position 0 the stream is neither at its end nor in the fallback, and its first byte can be read
once it exists. -/
theorem State.flags_of_outpos_zero {u : State} (hu : u.outpos = 0) (hb : 1 ≤ u.blocks.toNat)
    (hstream : 1 ≤ u.nblk.toNat → u.phase = .chain ∨ u.phase = .done) :
    u.outEnd = false ∧ u.fallbackFlag = false ∧ (1 ≤ u.nblk.toNat → u.outValid = true) := by
  have hpos : u.outpos.toNat = 0 := by rw [hu]; rfl
  rw [← Bool.not_eq_true, ← Bool.not_eq_true, State.outEnd_iff, State.fallbackFlag_iff,
    State.outValid_iff]
  exact ⟨by omega, by omega, fun hn => ⟨hstream hn, by omega, by omega⟩⟩

end

/-! ## The three rules -/

/-- Settles O11: refused while busy, the reset values elsewhere, and no other instruction lowers the
error flag. -/
theorem initRule : Obligations.InitRule :=
  ⟨fun _ hrow => decode_of_matchesRow (i := .init) hrow, fun s =>
    ⟨execInit_of_busy,
      fun h => ⟨s.newExpansion.complete .ok, execInit_of_idle h, s.newExpansion_statusWord, rfl⟩,
      fun _ _ => eq_init_of_clears_err⟩⟩

/-- Settles O12: what `START` answers in each case, and what the flags, the engine and the two writes
make of a state in `PAD`. -/
theorem startRule : Obligations.StartRule := by
  refine ⟨fun _ hrow => decode_of_matchesRow (i := .start) hrow, fun s =>
    ⟨execStart_of_closed, execStart_of_no_blocks, fun hp hb =>
      ⟨({ s with phase := .pad } : State).complete .ok, execStart_of_blocks hp hb, rfl, ?_, ?_,
        enabledStep_of_full (s := { s with phase := .pad }.complete .ok) (.inr rfl),
        fun _ hd => execWrBlocks_of_closed hd (by simp),
        fun _ hd => execWrSeedData_of_closed hd (by simp)⟩⟩⟩
  · rw [State.statusWord_getLsbD_two]
    rfl
  · rw [State.statusWord_getLsbD_four]
    rfl

/-- Settles O13: what `REWIND` answers in each case; the flags are those of position 0, and in `PAD`
the position was 0 before. -/
theorem rewindRule : Obligations.RewindRule := by
  refine ⟨fun _ hrow => decode_of_matchesRow (i := .rewind) hrow, fun s =>
    ⟨execRewind_of_open, fun hp =>
      ⟨({ s with outpos := 0 } : State).complete .ok, execRewind_of_closed hp, rfl, fun hs => ?_⟩⟩⟩
  obtain ⟨hend, hfall, hvalid⟩ := State.flags_of_outpos_zero
    (u := { s with outpos := 0 }.complete .ok) rfl (hs.blocks_pos hp) hs.stream_of_nblk_pos
  exact ⟨hend, hfall, hvalid,
    fun hpad => (BitVec.eq_of_toNat_eq (hs.outpos_zero (.inr hpad))).symm⟩

end Sys2Proof.Machine
end

section
/-! The registers that are read without a side effect (spec/41_host_operations.md R157, R161 to R165). -/

namespace Sys2Proof.Machine

theorem zext32_toNat {n : Nat} (v : BitVec n) (hn : n ≤ 32) : (zext32 v).toNat = v.toNat :=
  BitVec.toNat_setWidth_of_le hn

theorem paramWord_eq : paramWord = 0x01000400 := by decide

/-- The upper half of a 64-bit word, as a number. -/
theorem extractLsb'_upper_toNat (v : BitVec 64) :
    (v.extractLsb' 32 32).toNat = v.toNat / 2 ^ 32 := by
  rw [BitVec.extractLsb'_toNat, Nat.shiftRight_eq_div_pow]
  exact Nat.mod_eq_of_lt (by have := v.isLt; omega)

/-- R163: `NBLK` never exceeds its goal (R39 (a) to (c)). -/
theorem State.Consistent.nblk_le_hashGoal {s : State} (hs : s.Consistent) :
    s.nblk.toNat ≤ s.hashGoal := by
  cases hp : s.phase with
  | seed => rw [hs.nblk_zero (.inl hp)]; exact Nat.zero_le _
  | pad => rw [hs.nblk_zero (.inr hp)]; exact Nat.zero_le _
  | chain => exact (hs.chain_lt hp).2.le
  | done => exact (hs.done_iff.mp hp).1.le

/-- Settles O18: each read matches its row, completes with its register, and the block counter keeps to
its goal. -/
theorem registerReadRules : Obligations.RegisterReadRules := by
  refine ⟨fun _ => ⟨decode_of_matchesRow (i := .rdBlocks), decode_of_matchesRow (i := .rdSeedlenLo),
    decode_of_matchesRow (i := .rdSeedlenHi), decode_of_matchesRow (i := .rdNblk),
    decode_of_matchesRow (i := .rdOutpos), decode_of_matchesRow (i := .rdParam)⟩, fun s => ?_⟩
  refine ⟨⟨_, rfl, zext32_toNat s.blocks (by decide)⟩,
    ⟨_, rfl, BitVec.extractLsb'_toNat ..⟩,
    ⟨_, rfl, extractLsb'_upper_toNat s.seedlen⟩,
    ⟨_, rfl, zext32_toNat s.nblk (by decide)⟩,
    ⟨_, rfl, rfl⟩, ?_, fun hs => ⟨hs.nblk_zero, hs.nblk_le_hashGoal⟩⟩
  rw [← paramWord_eq]
  rfl

end Sys2Proof.Machine
end

section
/-! The engine's turn (spec/42_engine_steps.md R191 to R196): which step is enabled, what it reads,
and the state it leaves. -/

namespace Sys2Proof.Machine

section

variable {s : State}

/-! ## The enabled step -/

theorem enabledStep_of_pad1 (hp : s.phase = .pad) (hlo : 112 ≤ s.wfill.toNat)
    (hhi : s.wfill.toNat ≤ 127) : enabledStep s = some .pad1 := by
  have hfull : s.wfill.toNat ≠ 128 := by omega
  simp [enabledStep, EngineStep.enabled, hp, hfull, hlo, hhi]

theorem enabledStep_of_seedFinal (hp : s.phase = .pad) (hw : s.wfill.toNat ≤ 111) :
    enabledStep s = some .seedFinal := by
  have hfull : s.wfill.toNat ≠ 128 := by omega
  have hlo : ¬ 112 ≤ s.wfill.toNat := by omega
  simp [enabledStep, EngineStep.enabled, hp, hfull, hlo, hw]

theorem enabledStep_of_absorb (hp : s.phase = .chain) (heven : s.nblk.toNat % 2 = 0)
    (hnabs : s.nabs.toNat + 1 = s.nblk.toNat / 2) : enabledStep s = some .absorb := by
  simp [enabledStep, EngineStep.enabled, hp, heven, hnabs]

theorem enabledStep_of_final (hp : s.phase = .chain) (hnabs : s.nabs.toNat = s.nblk.toNat / 2) :
    enabledStep s = some .final := by
  simp [enabledStep, EngineStep.enabled, hp, hnabs]

theorem enabledStep_of_done (hp : s.phase = .done) : enabledStep s = none := by
  simp [enabledStep, EngineStep.enabled, hp]

theorem engineTurn_of_enabledStep {e : EngineStep} (h : enabledStep s = some e) :
    engineTurn s = e.run s := by
  simp [engineTurn, h]

/-! ## What a step reads -/

/-- Two byte strings of one length are equal where they have the same bytes. -/
theorem eq_of_getElem?_lt {u v : List Byte} {n : Nat} (hu : u.length = n) (hv : v.length = n)
    (h : ∀ k, k < n → u[k]? = v[k]?) : u = v :=
  List.ext_getElem?' fun k hk => h k (by simpa [hu, hv] using hk)

/-- The bytes that stand in `WBUF` from address 0 on are what a step reads there. -/
theorem memRead_wbuf {w : List Byte} {n : Nat} (hn : n ≤ 128) (hlen : w.length = n)
    (hw : ∀ k, k < n → s.wbuf.read k = w[k]?) : memRead s .wbuf 0 n = .ok w := by
  refine (memRead_ok_iff s .wbuf 0 n w).mpr ⟨hlen, fun k hk => ?_⟩
  rw [Nat.zero_add]
  exact ⟨hk.trans_le hn, hw k hk⟩

/-- The bytes that stand in `ACC` from address `a` on are what a step reads there. -/
theorem memRead_acc {b : List Byte} {a n : Nat} (ha : a + n ≤ 65536) (hlen : b.length = n)
    (hb : ∀ k, k < n → s.acc.read (a + k) = b[k]?) : memRead s .acc a n = .ok b :=
  (memRead_ok_iff s .acc a n b).mpr
    ⟨hlen, fun k hk => ⟨show a + k < 65536 by omega, hb k hk⟩⟩

/-- `E_FINAL` reads the Digest Block before block `i` for odd `i`, and nothing for even
`i` (R196). -/
theorem readLastBlock_ok {d : List Byte} {i : Nat} (hi : i < 1024)
    (hd : i % 2 = 1 → d.length = 64 ∧ ∀ k, k < 64 → s.acc.read (64 * (i - 1) + k) = d[k]?) :
    readLastBlock s i = .ok (if i % 2 = 1 then d else []) := by
  unfold readLastBlock
  split
  case isTrue hodd =>
    obtain ⟨hlen, hread⟩ := hd hodd
    exact memRead_acc (by omega) hlen hread
  case isFalse => rfl

/-- For even `i` the block of `E_FINAL` does not depend on a Digest Block. -/
theorem finalBlock_ite (i : Nat) (d : List Byte) :
    finalBlock i (if i % 2 = 1 then d else []) = finalBlock i d := by
  unfold finalBlock
  split <;> rfl

end

/-! ## What a step writes -/

theorem Mem.read_writeBytes_digest_inside (m : Mem) (c : Chaining) (a : Nat) {k : Nat}
    (h : k < 64) : (m.writeBytes a (digestBytes c)).read (a + k) = (digestBytes c)[k]? :=
  m.read_writeBytes_inside _ a (h.trans_eq (digestBytes_length c).symm)

theorem Mem.read_writeBytes_digest_outside (m : Mem) (c : Chaining) {a b : Nat}
    (h : b < a ∨ a + 64 ≤ b) : (m.writeBytes a (digestBytes c)).read b = m.read b := by
  rcases h with h | h
  · exact m.read_writeBytes_below _ h
  · exact m.read_writeBytes_above _ ((digestBytes_length c).symm ▸ h)

/-! ## The last message block of a hash -/

/-- Absorbing one message block is one compression (R136). -/
theorem absorb_block (c : Chaining) {b : List Byte} (hb : b.length = 128) :
    absorb c b = compress c b := by
  rw [absorb, hb, absorbBlocks, List.take_of_length_le hb.le, absorbBlocks]

/-- A hash ends with the compression of the last message block of the padded message. -/
theorem sha512_of_pad_eq {m u b : List Byte} (hpad : pad m = u ++ b) (hb : b.length = 128) :
    sha512 m = digestBytes (compress (absorb iv u) b) := by
  have hu : u.length % 128 = 0 := by
    have hlen := congrArg List.length hpad
    rw [pad_length, List.length_append, hb] at hlen
    omega
  rw [sha512, hpad, absorb_append iv b hu, absorb_block _ hb]

theorem zeros_add (j k : Nat) : zeros (j + k) = zeros j ++ zeros k := List.replicate_add j k 0

/-- A message that ends with a part `new` of at most 111 bytes after whole message blocks: the last
block is the one `E_SEEDFINAL` makes of `new` (R194). -/
theorem pad_append_eq_seedFinalBlock {old new : List Byte} (hold : old.length % 128 = 0)
    (hnew : new.length ≤ 111) :
    pad (old ++ new) = old ++ seedFinalBlock false new (old ++ new).length := by
  have hzeros : (111 + 128 - (old ++ new).length % 128) % 128 = 112 - (new.length + 1) := by
    rw [List.length_append]; omega
  rw [pad, padding, hzeros]
  simp [seedFinalBlock]

/-- A message whose last part has no room for the length: `E_PAD1` has compressed it with `0x80` and
zeros up to a whole block, and `E_SEEDFINAL` makes the last block of zeros and the length (R193,
R194). -/
theorem pad_eq_of_half_padded {m : List Byte} (hm : 112 ≤ m.length % 128) :
    pad m = m ++ [0x80] ++ zeros (127 - m.length % 128) ++ seedFinalBlock true [] m.length := by
  have hzeros : (111 + 128 - m.length % 128) % 128 = 127 - m.length % 128 + 112 := by omega
  simp [pad, padding, seedFinalBlock, hzeros, zeros_add]

/-- A message of an even number of Digest Blocks: the last message block is the padding alone
(R196). -/
theorem pad_eq_of_even {m : List Byte} {i : Nat} (hm : m.length = 64 * i) (hi : i % 2 = 0)
    (d : List Byte) : pad m = m ++ finalBlock i d := by
  have hzeros : (111 + 128 - 64 * i % 128) % 128 = 111 := by omega
  have hbits : 8 * (64 * i) = 512 * i := by omega
  simp [pad, padding, finalBlock, hm, hi, hzeros, hbits]

/-- A message of an odd number of Digest Blocks: the last message block is the last of them and the
padding (R196). -/
theorem pad_append_eq_of_odd {u d : List Byte} {i : Nat} (hm : (u ++ d).length = 64 * i)
    (hi : i % 2 = 1) : pad (u ++ d) = u ++ finalBlock i d := by
  have hzeros : (111 + 128 - 64 * i % 128) % 128 = 47 := by omega
  have hbits : 8 * (64 * i) = 512 * i := by omega
  rw [pad, hm]
  simp [padding, finalBlock, hi, hzeros, hbits]

/-! ## The hashes of the machine (R200) -/

section

variable {s : State} {seed w : List Byte}

/-- R194: `E_SEEDFINAL` completes the SHA-512 of the seed, whether or not `E_PAD1` went before
it. -/
theorem State.Computes.sha512_seed (hc : s.Computes seed) (hs : s.Consistent) (hp : s.phase = .pad)
    (hle : s.wfill.toNat ≤ 111) (hlen : w.length = s.wfill.toNat)
    (hw : ∀ k, k < s.wfill.toNat → s.wbuf.read k = w[k]?) :
    sha512 seed = digestBytes (compress s.hs (seedFinalBlock s.pad80 w s.seedlen.toNat)) := by
  have hblock : (seedFinalBlock s.pad80 w s.seedlen.toNat).length = 128 :=
    seedFinalBlock_length _ _ _ (hlen.trans_le hle)
  rw [← hc.length_eq] at hblock ⊢
  cases hpad : s.pad80 with
  | false =>
    obtain ⟨old, new, rfl, hold, hnew, hhs, hread⟩ := hc.open_seed (.inr ⟨hp, hpad⟩)
    obtain rfl : new = w :=
      eq_of_getElem?_lt hnew hlen fun k hk => (hread k hk).symm.trans (hw k hk)
    rw [hpad] at hblock
    rw [hhs]
    exact sha512_of_pad_eq (pad_append_eq_seedFinalBlock hold (hlen.trans_le hle)) hblock
  | true =>
    obtain ⟨hmod, hhs⟩ := hc.half_padded hp hpad
    obtain rfl : w = [] := List.eq_nil_of_length_eq_zero (hlen.trans (hs.pad80_pad hpad).2)
    rw [hpad] at hblock
    rw [hhs]
    exact sha512_of_pad_eq (pad_eq_of_half_padded hmod) hblock

/-- R196: `E_FINAL` completes the SHA-512 of the accumulator so far. -/
theorem State.Computes.sha512_chainBytes {d : List Byte} (hc : s.Computes seed)
    (hp : s.phase = .chain) (hnabs : s.nabs.toNat = s.nblk.toNat / 2)
    (hd : s.nblk.toNat % 2 = 1 → d.length = 64 ∧
      ∀ k, k < 64 → s.acc.read (64 * (s.nblk.toNat - 1) + k) = d[k]?) :
    sha512 (chainBytes seed s.nblk.toNat) =
      digestBytes (compress s.ms (finalBlock s.nblk.toNat d)) := by
  have hacc := hc.acc_blocks (.inl hp)
  have hblock := finalBlock_length s.nblk.toNat d fun hodd => (hd hodd).1
  rw [hc.midstate (.inl hp), hnabs]
  refine sha512_of_pad_eq ?_ hblock
  generalize s.nblk.toNat = i at *
  rcases Nat.mod_two_eq_zero_or_one i with heven | hodd
  · rw [List.take_of_length_le (by rw [chainBytes_length]; omega)]
    exact pad_eq_of_even (chainBytes_length seed i) heven d
  · obtain ⟨hlen, hread⟩ := hd hodd
    have hsplit : (chainBytes seed i).take (128 * (i / 2)) ++ d = chainBytes seed i := by
      have hdrop : (chainBytes seed i).drop (128 * (i / 2)) = d := by
        refine eq_of_getElem?_lt (by simp; omega) hlen fun k hk => ?_
        rw [List.getElem?_drop, show 128 * (i / 2) = 64 * (i - 1) by omega, ← hread k hk,
          hacc _ (by omega)]
      rw [← hdrop, List.take_append_drop]
    have hpad := pad_append_eq_of_odd (u := (chainBytes seed i).take (128 * (i / 2))) (d := d)
      (by rw [hsplit, chainBytes_length]) hodd
    rwa [hsplit] at hpad

end

/-! ## The five steps -/

/-- Settles O32: the step reads the whole buffer and empties it, so that a seed byte has room
again. -/
theorem seedBlockStep : Obligations.SeedBlockStep := by
  intro s b hp hw hlen hb
  refine ⟨?_, fun hpad => ?_, fun hseed => ⟨?_, fun d t hd hl hrun => ?_⟩⟩
  · rw [engineTurn_of_enabledStep (enabledStep_of_full hp hw)]
    exact engineSeedBlk_ok s b (memRead_wbuf le_rfl hlen hb)
  · exact enabledStep_of_seedFinal hpad (by simp)
  · exact (State.seedRdy_iff _).mpr ⟨hseed, by simp⟩
  · have hok := execWrSeedData_of_room (s := { s with hs := compress s.hs b, wfill := 0 })
      hd hseed hl (by simp)
    cases hok.symm.trans hrun
    rfl

/-- Settles O33: the step empties the buffer, so the length fits in the next block; a state with
`PAD80` set has an empty buffer already. -/
theorem firstPaddingStep : Obligations.FirstPaddingStep := by
  intro s w hp hlo hhi hlen hw
  refine ⟨_, ?_, rfl, enabledStep_of_seedFinal hp (by simp), fun hs => ?_⟩
  · rw [engineTurn_of_enabledStep (enabledStep_of_pad1 hp hlo hhi), ← hlen]
    exact enginePad1_ok s w (memRead_wbuf (by omega) hlen hw)
  · rw [← Bool.not_eq_true]
    intro hpad
    have := (hs.pad80_pad hpad).2
    omega

/-- Settles O34: the step writes the digest over the first 64 bytes of `ACC`; with one block there
and nothing read, the next stream byte is valid. -/
theorem seedFinalStep : Obligations.SeedFinalStep := by
  intro s w hp hle hlen hw
  have hturn := engineTurn_of_enabledStep (enabledStep_of_seedFinal hp hle)
  rw [EngineStep.run, engineSeedFinal_ok s w (memRead_wbuf (by omega) hlen hw)] at hturn
  generalize hh : compress s.hs (seedFinalBlock s.pad80 w s.seedlen.toNat) = h at hturn
  have hdigest : ∀ a, a < 64 →
      (s.acc.writeBytes 0 (digestBytes h)).read a = (digestBytes h)[a]? := fun a ha => by
    simpa using s.acc.read_writeBytes_digest_inside h 0 ha
  refine ⟨_, h, _, rfl, hh.symm, hturn, hdigest,
    fun a ha => s.acc.read_writeBytes_digest_outside h (.inr (by omega)), fun hs =>
      ⟨fun hpad => (hs.pad80_pad hpad).2, fun t ht => ?_, fun seed hc a ha => ?_⟩⟩
  · have hpos := hs.outpos_zero (.inr hp)
    have hblocks := hs.blocks_pos (by simp [hp])
    cases hturn.symm.trans ht
    refine (State.outValid_iff _).mpr ⟨?_, by dsimp only; omega, .inl (by simp [hpos])⟩
    dsimp only
    split <;> simp
  · rw [hc.sha512_seed hs hp hle hlen hw, hh]
    exact hdigest a ha

/-- Settles O35: `NBLK` is even and below its goal, so it is at most 1022 and `NABS` does not
wrap. -/
theorem absorbStep : Obligations.AbsorbStep := by
  intro s b hp heven hnabs hlen hb
  refine ⟨?_, fun hs => ?_⟩
  · rw [engineTurn_of_enabledStep (enabledStep_of_absorb hp heven hnabs)]
    exact engineAbsorb_ok s b (memRead_acc (by omega) hlen hb)
  · have hlt := (hs.chain_lt hp).2
    rw [State.hashGoal_eq] at hlt
    have hsucc : (s.nabs + 1).toNat = s.nabs.toNat + 1 := by
      simp only [BitVec.toNat_add, BitVec.reduceToNat]
      omega
    exact ⟨hsucc, by omega, by omega, by omega, by omega,
      enabledStep_of_final hp (hsucc.trans hnabs)⟩

/-- After `E_FINAL` (R196): nothing is left to do in `DONE`; otherwise the new block makes a pair to
absorb, or the next block is due. -/
theorem enabledStep_after_final {s t : State} {goal : Nat}
    (hphase : t.phase = if s.nblk.toNat + 1 = goal then .done else .chain)
    (hnblk : t.nblk.toNat = s.nblk.toNat + 1) (hnabs : t.nabs.toNat = s.nblk.toNat / 2) :
    enabledStep t = if s.nblk.toNat + 1 = goal then none
      else if (s.nblk.toNat + 1) % 2 = 0 then some .absorb else some .final := by
  split_ifs at hphase ⊢ with hgoal heven
  · exact enabledStep_of_done hphase
  · exact enabledStep_of_absorb hphase (by omega) (by omega)
  · exact enabledStep_of_final hphase (by omega)

/-- Settles O36: block `NBLK` lies inside `ACC`, and the step writes there the digest of the last
message block over the midstate. -/
theorem finalStep : Obligations.FinalStep := by
  intro s d hp hnabs hd
  have hen := enabledStep_of_final hp hnabs
  have hn : s.nblk.toNat < 1024 := by omega
  have hsucc : (s.nblk + 1).toNat = s.nblk.toNat + 1 := by
    simp only [BitVec.toNat_add, BitVec.reduceToNat]
    omega
  have hturn := engineTurn_of_enabledStep hen
  rw [EngineStep.run, engineFinal_ok s _ (readLastBlock_ok hn hd) hn, finalBlock_ite,
    State.hashGoal_eq, hp] at hturn
  refine ⟨finalBlock s.nblk.toNat d, _, _, _, rfl, hsucc, rfl, hturn,
    fun k hk => s.acc.read_writeBytes_digest_inside _ _ hk,
    fun a ha => s.acc.read_writeBytes_digest_outside _ ha,
    enabledStep_after_final rfl hsucc hnabs, fun _ seed hc =>
      ⟨hc.acc_blocks (.inl hp), fun k hk => ?_⟩⟩
  rw [hc.sha512_chainBytes hp hnabs hd]
  exact s.acc.read_writeBytes_digest_inside _ _ hk

end Sys2Proof.Machine
end

section
/-! The expanded stream (spec/42_engine_steps.md R190, R199, R202): every byte of `expand` is found
in the full chain at the address of R199, whatever the number of blocks. -/

namespace Sys2Proof.Machine

/-! ## The chain -/

/-- A shorter chain is the beginning of a longer one. -/
theorem take_chainBytes (seed : List Byte) {j k : Nat} (h : j ≤ k) :
    (chainBytes seed k).take (64 * j) = chainBytes seed j := by
  induction k, h using Nat.le_induction with
  | base => exact List.take_of_length_le (chainBytes_length seed j).le
  | succ k hjk ih =>
    rw [chainBytes_succ, List.take_append_of_le_length (by rw [chainBytes_length]; omega), ih]

/-- A byte of a chain is the same in every longer chain. -/
theorem getElem?_chainBytes (seed : List Byte) {j k a : Nat} (h : j ≤ k) (ha : a < 64 * j) :
    (chainBytes seed j)[a]? = (chainBytes seed k)[a]? := by
  rw [← take_chainBytes seed h, List.getElem?_take_of_lt ha]

/-! ## The address of a stream byte (R199) -/

theorem streamAddr_of_lt {p : Nat} (h : p < 65536) : streamAddr p = p := if_pos h

theorem streamAddr_of_le {p : Nat} (h : 65536 ≤ p) : streamAddr p = p % 256 := if_neg h.not_gt

theorem streamAddr_le (p : Nat) : streamAddr p ≤ p := by
  unfold streamAddr
  split
  · exact le_rfl
  · exact Nat.mod_le _ _

/-- Byte `p` of the stream is the byte of the full chain at the address of R199; the number of
blocks says only whether there is a byte `p`. -/
theorem expand_getElem? (seed : List Byte) {n p : Nat} (hp : p < 64 * n) :
    (expand seed n)[p]? = (chainBytes seed 1024)[streamAddr p]? := by
  have hbyte : (expand seed n)[p]? = some (streamByte seed n p) := by
    simp [expand, hp]
  rw [hbyte, streamByte_eq]
  split
  case isTrue hhash =>
    rw [streamAddr_of_lt (by omega), ← getElem?_chainBytes seed (min_le_right n 1024) hhash]
    simp [List.getD_eq_getElem?_getD, hhash]
  case isFalse hfall =>
    have hmin : min n 1024 = 1024 := by omega
    have hmod : p % 256 < 65536 := by omega
    rw [hmin, streamAddr_of_le (by omega)]
    simp [List.getD_eq_getElem?_getD, hmod]

/-- The stream begins with the chain, up to the cap (R190). -/
theorem take_expand (seed : List Byte) {i n : Nat} (h : i ≤ min n 1024) :
    (expand seed n).take (64 * i) = chainBytes seed i := by
  refine eq_of_getElem?_lt (by simp; omega) (chainBytes_length seed i) fun p hp => ?_
  rw [List.getElem?_take_of_lt hp, expand_getElem? seed (by omega), streamAddr_of_lt (by omega),
    getElem?_chainBytes seed (by omega : i ≤ 1024) hp]

/-- Output block `i` below the cap is Digest Block `i` (R190). -/
theorem block_expand (seed : List Byte) {i n : Nat} (h : i < min n 1024) :
    ((expand seed n).drop (64 * i)).take 64 = blk seed i := by
  rw [List.take_drop, ← Nat.mul_succ, take_expand seed h, chainBytes_succ,
    List.drop_append_of_le_length (by simp), List.drop_of_length_le (by simp), List.nil_append]

/-- From 65536 on the stream repeats its first 256 bytes (R190). -/
theorem expand_getElem?_fallback (seed : List Byte) {n p : Nat} (hp : 65536 ≤ p)
    (hn : p < 64 * n) : (expand seed n)[p]? = (expand seed n)[p % 256]? := by
  rw [expand_getElem? seed hn, expand_getElem? seed (by omega), streamAddr_of_le hp,
    streamAddr_of_lt (by omega)]

/-- Settles O53: the stream begins with the chain up to the cap, and the fallback repeats 256 bytes,
which are four blocks. -/
theorem expandIsTheHashChain : Obligations.ExpandIsTheHashChain := by
  intro seed n hn
  refine ⟨expand_length seed n, take_expand seed (i := 1) (by omega), fun i hpos hi => ?_,
    fun p => expand_getElem?_fallback seed, fun j hj hjn => ?_⟩
  · rw [block_expand seed hi, take_expand seed hi.le, blk, if_neg (by omega)]
  · refine eq_of_getElem?_lt (n := 64) (by simp; omega) (by simp; omega) fun q hq => ?_
    rw [List.getElem?_take_of_lt hq, List.getElem?_take_of_lt hq, List.getElem?_drop,
      List.getElem?_drop, expand_getElem?_fallback seed (by omega) (by omega),
      show (64 * j + q) % 256 = 64 * (j % 4) + q by omega]

/-! ## The output port -/

section

variable {s : State}

/-- `RD OUT_DATA` with a valid next byte `v` (R159). -/
theorem execRdOutData_of_outValid {v : Byte} (hv : s.outValid = true)
    (hread : s.acc.read (streamAddr s.outpos.toNat) = some v) :
    execRdOutData s = .next ({ s with outpos := s.outpos + 1 }.complete (.okRead (zext32 v))) := by
  obtain ⟨hphase, hlt, -⟩ := s.outValid_iff.mp hv
  have hopen : s.phase ≠ .seed := by rcases hphase with h | h <;> simp [h]
  have hend : s.outpos.toNat ≠ s.streamLength := hlt.ne
  have hload := (loadByte_ok_iff s .acc _ v).mpr ⟨streamAddr_lt _, hread⟩
  simp [execRdOutData, hopen, hend, hv, hload]

/-- Where the next stream byte is valid, `ACC` holds it, as the full chain of the seed has it (R199
to R201). -/
theorem State.Computes.read_streamAddr {seed : List Byte} (hc : s.Computes seed) (hs : s.Consistent)
    (hv : s.outValid = true) :
    s.acc.read (streamAddr s.outpos.toNat) =
      (chainBytes seed 1024)[streamAddr s.outpos.toNat]? := by
  obtain ⟨hphase, -, hexists⟩ := s.outValid_iff.mp hv
  have hcap := hs.nblk_le_hashGoal
  rw [State.hashGoal_eq] at hcap
  have hle := streamAddr_le s.outpos.toNat
  have hlt := streamAddr_lt s.outpos.toNat
  have haddr : streamAddr s.outpos.toNat < 64 * s.nblk.toNat := by omega
  rw [hc.acc_blocks hphase _ haddr,
    getElem?_chainBytes seed (by omega : s.nblk.toNat ≤ 1024) haddr]

end

/-- Settles O54: the byte at a position and the address it is read from do not depend on the number
of blocks. -/
theorem expandPrefixStability : Obligations.ExpandPrefixStability := by
  refine ⟨fun seed k n _ hkn => ?_, fun s u seed hs hu hcs hcu hvs hvu hpos => ?_⟩
  · refine eq_of_getElem?_lt (by simp; omega) (expand_length seed k) fun p hp => ?_
    rw [List.getElem?_take_of_lt hp, expand_getElem? seed hp, expand_getElem? seed (by omega)]
  · obtain ⟨v, hv⟩ : ∃ v, (chainBytes seed 1024)[streamAddr s.outpos.toNat]? = some v :=
      ⟨_, List.getElem?_eq_getElem (by rw [chainBytes_length]; exact streamAddr_lt _)⟩
    refine ⟨_, _, execRdOutData_of_outValid hvs ((hcs.read_streamAddr hs hvs).trans hv), ?_⟩
    rw [hpos] at hv ⊢
    exact execRdOutData_of_outValid hvu ((hcu.read_streamAddr hu hvu).trans hv)

end Sys2Proof.Machine
end

section
/-! What the encoder writes, the decoder reads (spec/30_encoding.md R91, R104), one transaction at a
time. -/

namespace Sys2Proof

/-- The data that the encoder writes are what the row asks for, where the operand is one of the
row's (R96, R97). -/
theorem rowData_encodeReq {i : Instr} (h : i.wellFormed = true) :
    i.RowData (encodeReq i).wdata := by
  cases i with
  | wrBlocks _ => exact h
  | wrSeedData _ => exact h
  | init | start | rewind => rfl
  | _ => trivial

@[simp] theorem withData_encodeReq_wdata (i : Instr) : i.withData (encodeReq i).wdata = i := by
  cases i <;> rfl

theorem decode_encodeReq_word {i : Instr} (h : i.wellFormed = true) :
    decode (encodeReq i).word = .ok i := by
  have hrow : MatchesRow (encodeReq i).word i := by
    rw [matchesRow_iff, BusReq.w_word, BusReq.addr_word, BusReq.data_word]
    exact ⟨rfl, rfl, rowData_encodeReq h⟩
  rw [decode_of_matchesRow hrow, BusReq.data_word, withData_encodeReq_wdata]

end Sys2Proof
end

section
/-! The size of a build call (spec/45_host_software.md R221, R222, R230): the block count exceeds
`k` exactly if the square of the requested length exceeds `64 * k`. -/

namespace Sys2Proof.Machine

/-- Settles O55: adding 63 before the division rounds up to the next multiple of 64. -/
theorem sequenceLengthFormula : Obligations.SequenceLengthFormula := by
  intro r
  rw [pow_two]
  refine ⟨rfl, Nat.dvd_mul_left _ _, ?_, fun m ⟨k, hk⟩ hm => ?_⟩
  · unfold sequenceLength
    omega
  · unfold sequenceLength
    omega

theorem sequenceLength_eq_mul (r : Nat) : sequenceLength r = 64 * (sequenceLength r / 64) :=
  (Nat.mul_div_cancel' (Nat.dvd_mul_left 64 _)).symm

theorem lt_sequenceLength_div_iff {k r : Nat} : k < sequenceLength r / 64 ↔ 64 * k < r * r := by
  unfold sequenceLength
  omega

/-- There is a block exactly if the requested length is not 0. -/
theorem sequenceLength_div_pos_iff {r : Nat} : 1 ≤ sequenceLength r / 64 ↔ 1 ≤ r := by
  rw [Nat.succ_le_iff, lt_sequenceLength_div_iff, Nat.mul_zero]
  exact Nat.mul_self_le_mul_self_iff (m := 1)

/-- The block count fits the 26 bits of `BLOCKS` (R96) up to a requested length of 65535. -/
theorem sequenceLength_div_lt_iff {r : Nat} : sequenceLength r / 64 < 2 ^ 26 ↔ r ≤ 65535 := by
  have hcount := lt_sequenceLength_div_iff (k := 2 ^ 26 - 1) (r := r)
  have hfits : r * r ≤ 65535 * 65535 ↔ r ≤ 65535 := Nat.mul_self_le_mul_self_iff
  have hbeyond : 65536 * 65536 ≤ r * r ↔ 65536 ≤ r := Nat.mul_self_le_mul_self_iff
  omega

/-- The stream covers the index space of the permutation from a requested length of 256 on. -/
theorem indexSpace_le_sequenceLength_iff {r : Nat} : 65536 ≤ sequenceLength r ↔ 256 ≤ r := by
  have hcount := lt_sequenceLength_div_iff (k := 1023) (r := r)
  have hshort : r * r ≤ 255 * 255 ↔ r ≤ 255 := Nat.mul_self_le_mul_self_iff
  have hcover : 256 * 256 ≤ r * r ↔ 256 ≤ r := Nat.mul_self_le_mul_self_iff
  omega

/-- The two checks of R230, as bounds of the requested length. -/
theorem buildInRange_iff {r : Nat} : buildInRange r = true ↔ 256 ≤ r ∧ r ≤ 65535 := by
  rw [buildInRange, Bool.and_eq_true, decide_eq_true_iff, decide_eq_true_iff,
    indexSpace_le_sequenceLength_iff, sequenceLength_div_lt_iff]

end Sys2Proof.Machine
end

section
/-! The permutation (spec/45_host_software.md R224 to R227): the indices of a byte string, sorted by
`(value, index)`. -/

namespace Sys2Proof.Machine

/-- Index `i` comes before index `j` in the order of `(value, index)` (R225). -/
def Precedes (bytes : List Byte) (i j : Nat) : Prop :=
  (bytes.getD i 0).toNat < (bytes.getD j 0).toNat ∨ (bytes.getD i 0 = bytes.getD j 0 ∧ i < j)

/-- The order of two indices depends on the bytes at them alone. -/
theorem Precedes.of_take {bytes : List Byte} {n i j : Nat} (hi : i < n) (hj : j < n)
    (h : Precedes (bytes.take n) i j) : Precedes bytes i j := by
  have hget {k : Nat} (hk : k < n) : (bytes.take n).getD k 0 = bytes.getD k 0 := by
    rw [List.getD_eq_getElem?_getD, List.getD_eq_getElem?_getD, List.getElem?_take_of_lt hk]
  rwa [Precedes, hget hi, hget hj] at h

/-- A pair of R224 carries the byte at its index. -/
theorem getD_of_mem_zip_range {bytes : List Byte} {p : Nat × Byte}
    (h : p ∈ (List.range bytes.length).zip bytes) : bytes.getD p.1 0 = p.2 := by
  obtain ⟨k, hk, rfl⟩ := List.mem_iff_getElem.mp h
  simp only [List.length_zip, List.length_range, min_self] at hk
  simp [hk]

/-- On pairs with different indices the order of the sort is strict: no two compare equal (R225). -/
theorem precedes_of_pairLe {bytes : List Byte} {p q : Nat × Byte} (hp : bytes.getD p.1 0 = p.2)
    (hq : bytes.getD q.1 0 = q.2) (hne : p.1 ≠ q.1) (h : pairLe p q) :
    Precedes bytes p.1 q.1 := by
  rw [Precedes, hp, hq]
  exact h.imp_right fun ⟨hval, hidx⟩ => ⟨BitVec.eq_of_toNat_eq hval, by omega⟩

/-- `pairLe` is total and transitive, so the insertion sort sorts by it. -/
theorem pairwise_insertionSort_pairLe (l : List (Nat × Byte)) :
    (List.insertionSort pairLe l).Pairwise pairLe := by
  have : Std.Total pairLe := ⟨fun p q => by unfold pairLe; omega⟩
  have : IsTrans (Nat × Byte) pairLe := ⟨fun p q u hpq hqu => by unfold pairLe at *; omega⟩
  exact List.pairwise_insertionSort pairLe l

/-- Every index stands in the sorted list exactly once (R227). -/
theorem sortedIndices_perm (bytes : List Byte) :
    (sortedIndices bytes).Perm (List.range bytes.length) := by
  have h := (List.perm_insertionSort pairLe ((List.range bytes.length).zip bytes)).map Prod.fst
  rwa [List.map_fst_zip (by simp)] at h

theorem sortedIndices_pairwise (bytes : List Byte) :
    (sortedIndices bytes).Pairwise (Precedes bytes) := by
  have hnodup : (sortedIndices bytes).Nodup :=
    (sortedIndices_perm bytes).nodup_iff.mpr List.nodup_range
  have hbyte : ∀ p ∈ List.insertionSort pairLe ((List.range bytes.length).zip bytes),
      bytes.getD p.1 0 = p.2 :=
    fun p hp => getD_of_mem_zip_range ((List.mem_insertionSort pairLe).mp hp)
  refine List.pairwise_map.mpr (List.Pairwise.imp_of_mem ?_
    ((List.pairwise_map.mp hnodup).and (pairwise_insertionSort_pairLe _)))
  rintro p q hp hq ⟨hne, hle⟩
  exact precedes_of_pairLe (hbyte p hp) (hbyte q hq) hne hle

theorem permutationSequence_perm {stream : List Byte} (h : 65536 ≤ stream.length) :
    (permutationSequence stream).Perm (List.range 65536) := by
  have hperm := sortedIndices_perm (stream.take 65536)
  rwa [List.length_take_of_le h] at hperm

/-- Settles O56: the sort permutes the indices and orders them by the first 65536 bytes, which are
the stream's own. -/
theorem permutationIsASortedBijection : Obligations.PermutationIsASortedBijection := by
  intro stream h
  have hperm := permutationSequence_perm h
  have hlt : ∀ i ∈ permutationSequence stream, i < 65536 :=
    fun i hi => List.mem_range.mp (hperm.mem_iff.mp hi)
  exact ⟨hperm, (sortedIndices_pairwise (stream.take 65536)).imp_of_mem
    fun hi hj hij => hij.of_take (hlt _ hi) (hlt _ hj)⟩

end Sys2Proof.Machine
end

section
/-! The Secret Builder (spec/45_host_software.md R222, R223, R230): which requested lengths `build`
takes, what it then returns, and the transactions it issues. -/

namespace Sys2Proof.Machine

/-! ## The range -/

theorem build_of_outside (seed : List Byte) {r : Nat} (h : r ≤ 255 ∨ 65536 ≤ r) :
    build seed r = .error .rangeError :=
  if_neg fun hr => by have := buildInRange_iff.mp hr; omega

theorem buildScript_of_outside (seed : List Byte) {r : Nat} (h : r ≤ 255 ∨ 65536 ≤ r) :
    buildScript seed r = .error .rangeError :=
  if_neg fun hr => by have := buildInRange_iff.mp hr; omega

theorem build_of_inside (seed : List Byte) {r : Nat} (hlo : 256 ≤ r) (hhi : r ≤ 65535) :
    build seed r = .ok
      { substitution := substitutionSequence (expand seed (sequenceLength r / 64))
        permutation := permutationSequence (expand seed (sequenceLength r / 64))
        length := sequenceLength r } :=
  if_pos (buildInRange_iff.mpr ⟨hlo, hhi⟩)

/-! ## The bundle -/

/-- Widening keeps the value of each byte (R223). -/
theorem substitutionSequence_map_toNat (stream : List Byte) :
    (substitutionSequence stream).map BitVec.toNat = stream.map BitVec.toNat := by
  rw [substitutionSequence, List.map_map]
  exact List.map_congr_left fun b _ => BitVec.toNat_setWidth_of_le (by decide)

@[simp] theorem substitutionSequence_length (stream : List Byte) :
    (substitutionSequence stream).length = stream.length := List.length_map _

/-- The stream of a build call has the sequence length (R221). -/
theorem expand_sequenceLength_length (seed : List Byte) (r : Nat) :
    (expand seed (sequenceLength r / 64)).length = sequenceLength r :=
  (expand_length seed _).trans (sequenceLength_eq_mul r).symm

/-! ## The transactions -/

/-- The instructions of a build call, in order (R222). -/
def buildInstrs (seed : List Byte) (r : Nat) : List Instr :=
  [.init] ++ (seed.map zext32).map .wrSeedData ++
    [.wrBlocks (BitVec.ofNat 32 (sequenceLength r / 64)), .start] ++
    List.replicate (sequenceLength r) .rdOutData

/-- `buildInstrs` is what the model's script presents. -/
theorem buildScript_of_inside (seed : List Byte) {r : Nat} (hlo : 256 ≤ r) (hhi : r ≤ 65535) :
    buildScript seed r = .ok (((buildInstrs seed r).map encodeReq).map .txn) := by
  rw [buildScript, if_pos (buildInRange_iff.mpr ⟨hlo, hhi⟩)]
  simp [buildInstrs, Pseudo.expansion, seedWrites, seedValueWrites, Function.comp_def]

theorem seedDataLegal_zext32 (b : Byte) : seedDataLegal (zext32 b) = true := by
  rw [seedDataLegal_iff, zext32_toNat b (by decide)]
  exact b.isLt

/-- The block count as a write value keeps its value (R96). -/
theorem blocksOperand_toNat {r : Nat} (h : r ≤ 65535) :
    (BitVec.ofNat 32 (sequenceLength r / 64)).toNat = sequenceLength r / 64 := by
  have := sequenceLength_div_lt_iff.mpr h
  exact Nat.mod_eq_of_lt (by omega)

theorem wellFormed_of_mem_buildInstrs {seed : List Byte} {r : Nat} {i : Instr} (h : r ≤ 65535)
    (hi : i ∈ buildInstrs seed r) : i.wellFormed = true := by
  simp only [buildInstrs, List.mem_append, List.mem_map, List.mem_cons, List.not_mem_nil, or_false,
    List.mem_replicate] at hi
  obtain ((rfl | ⟨_, ⟨b, -, rfl⟩, rfl⟩) | rfl | rfl) | ⟨-, rfl⟩ := hi
  · rfl
  · exact seedDataLegal_zext32 b
  · rw [Instr.wellFormed, blocksDataLegal_iff, blocksOperand_toNat h]
    exact sequenceLength_div_lt_iff.mpr h
  · rfl
  · rfl

/-! ## The obligations -/

/-- Settles O57: the checks of `build` are bounds of the requested length, and inside them the
stream has at least 65536 bytes. -/
theorem buildRangeErrors : Obligations.BuildRangeErrors := by
  intro seed r
  refine ⟨fun h => ⟨build_of_outside seed h, buildScript_of_outside seed h⟩, fun hlo hhi => ?_⟩
  have hlen := expand_sequenceLength_length seed r
  have hcover := indexSpace_le_sequenceLength_iff.mpr hlo
  refine ⟨⟨_, _, build_of_inside seed hlo hhi, rfl, substitutionSequence_map_toNat _, ?_, rfl, ?_,
    rfl⟩, _, buildScript_of_inside seed hlo hhi⟩
  · exact (substitutionSequence_length _).trans hlen
  · exact permutationSequence_perm (hcover.trans hlen.ge)

/-- Settles O59: every transaction of the script is the encoding of a well-formed instruction. -/
theorem buildIssuesTheTransactions : Obligations.BuildIssuesTheTransactions := by
  refine ⟨fun r => ?_, fun seed r hlo hhi => ?_⟩
  · rw [Nat.le_sub_one_iff_lt (by decide), sequenceLength_div_pos_iff, sequenceLength_div_lt_iff]
  · refine ⟨_, _, seed.map zext32, buildScript_of_inside seed hlo hhi, blocksOperand_toNat hhi,
      ?_, ?_⟩
    · rw [List.map_map]
      exact List.map_congr_left fun b _ => zext32_toNat b (by decide)
    · rw [List.map_map]
      exact List.map_congr_left fun i hi =>
        decode_encodeReq_word (wellFormed_of_mem_buildInstrs hhi hi)

end Sys2Proof.Machine
end

section
/-! Which transaction raises which error (spec/60_exceptions.md R254, R256 to R259). -/

namespace Sys2Proof

/-! ## Writes with a reserved bit set -/

/-- A write to `BLOCKS` with one of `DATA[31:26]` set is in class 4 (R96, R101). -/
theorem decode_of_reserved_blocks {r : BusReq} (hw : r.we = true) (ha : r.addr = 0x08)
    (hd : 2 ^ 26 ≤ r.wdata.toNat) : decode r.word = .error .reservedValue := by
  have hlegal : ¬ blocksDataLegal r.wdata = true := by rwa [blocksDataLegal_iff, not_lt]
  rw [decode_word, ha, hw]
  exact if_neg hlegal

/-- A write to `SEED_DATA` with one of `DATA[31:8]` set is in class 4 (R97, R101). -/
theorem decode_of_reserved_seed_data {r : BusReq} (hw : r.we = true) (ha : r.addr = 0x0C)
    (hd : 2 ^ 8 ≤ r.wdata.toNat) : decode r.word = .error .reservedValue := by
  have hlegal : ¬ seedDataLegal r.wdata = true := by rwa [seedDataLegal_iff, not_lt]
  rw [decode_word, ha, hw]
  exact if_neg hlegal

theorem wellFormed_wrBlocks_iff (d : Word32) :
    (Instr.wrBlocks d).wellFormed = true ↔ d.toNat < 2 ^ 26 :=
  blocksDataLegal_iff d

theorem wellFormed_wrSeedData_iff (d : Word32) :
    (Instr.wrSeedData d).wellFormed = true ↔ d.toNat < 2 ^ 8 :=
  seedDataLegal_iff d

end Sys2Proof

namespace Sys2Proof.Machine

/-! ## The error checks of `RD OUT_DATA` -/

theorem execRdOutData_of_open {s : State} (hp : s.phase = .seed) :
    execRdOutData s = .next (s.ErrorOutcome .seq) := by
  simpa [hp, State.raiseErr_eq_errorOutcome] using execRdOutData_cases s

theorem execRdOutData_of_end {s : State} (hp : s.phase ≠ .seed)
    (he : s.outpos.toNat = 64 * s.blocks.toNat) :
    execRdOutData s = .next (s.ErrorOutcome .underrun) := by
  rw [← State.streamLength_eq] at he
  simpa [hp, he, State.raiseErr_eq_errorOutcome] using execRdOutData_cases s

/-! ## The causes of errors, in one table -/

/-- The causes of R254 and R256 to R259: in state `s` the instruction raises the error. Each
cause includes that the checks before it passed (R153 to R159), so the causes of one instruction
exclude each other. -/
inductive Raises (s : State) : Instr → ErrCode → Prop
  | initBusy (hp : s.phase = .pad ∨ s.phase = .chain) : Raises s .init .seq
  | startClosed (hp : s.phase ≠ .seed) : Raises s .start .seq
  | startNoBlocks (hp : s.phase = .seed) (hb : s.blocks.toNat = 0) : Raises s .start .badLen
  | rewindOpen (hp : s.phase = .seed) : Raises s .rewind .seq
  | blocksReserved {d : Word32} (hd : 2 ^ 26 ≤ d.toNat) : Raises s (.wrBlocks d) .badVal
  | blocksClosed {d : Word32} (hd : d.toNat < 2 ^ 26) (hp : s.phase ≠ .seed) :
      Raises s (.wrBlocks d) .seq
  | seedReserved {d : Word32} (hd : 2 ^ 8 ≤ d.toNat) : Raises s (.wrSeedData d) .badVal
  | seedClosed {d : Word32} (hd : d.toNat < 2 ^ 8) (hp : s.phase ≠ .seed) :
      Raises s (.wrSeedData d) .seq
  | seedOverflow {d : Word32} (hd : d.toNat < 2 ^ 8) (hp : s.phase = .seed)
      (hl : s.seedlen.toNat = 2 ^ 64 - 1) : Raises s (.wrSeedData d) .seedOvf
  | outOpen (hp : s.phase = .seed) : Raises s .rdOutData .seq
  | outEnd (hp : s.phase ≠ .seed) (he : s.outpos.toNat = 64 * s.blocks.toNat) :
      Raises s .rdOutData .underrun

section

variable {s t : State} {i : Instr} {c : ErrCode}

/-- A cause of the table raises its error. -/
theorem exec_of_raises (h : Raises s i c) : exec i s = .next (s.ErrorOutcome c) := by
  cases h with
  | initBusy hp => exact execInit_of_busy hp
  | startClosed hp => exact execStart_of_closed hp
  | startNoBlocks hp hb => exact execStart_of_no_blocks hp hb
  | rewindOpen hp => exact execRewind_of_open hp
  | blocksReserved hd => exact execWrBlocks_of_reserved hd
  | blocksClosed hd hp => exact execWrBlocks_of_closed hd hp
  | seedReserved hd => exact execWrSeedData_of_reserved hd
  | seedClosed hd hp => exact execWrSeedData_of_closed hd hp
  | seedOverflow hd hp hl => exact execWrSeedData_of_overflow hd hp hl
  | outOpen hp => exact execRdOutData_of_open hp
  | outEnd hp he => exact execRdOutData_of_end hp he

/-- The table is complete: an instruction that answers an error has a cause in it. -/
theorem raises_of_response (h : exec i s = .next t) (hc : t.response = .err c) :
    Raises s i c := by
  cases i <;> simp only [exec] at h
  case init =>
    obtain ⟨hbusy, e⟩ | ⟨_, e⟩ := execInit_cases s <;> rw [e] at h <;> cases h <;> cases hc
    exact .initBusy (s.busy_iff.mp hbusy)
  case start =>
    obtain ⟨hp, e⟩ | ⟨hp, hb, e⟩ | ⟨_, _, e⟩ := execStart_cases s <;>
      rw [e] at h <;> cases h <;> cases hc
    · exact .startClosed hp
    · exact .startNoBlocks hp (congrArg BitVec.toNat hb)
  case rewind =>
    obtain ⟨hp, e⟩ | ⟨_, e⟩ := execRewind_cases s <;> rw [e] at h <;> cases h <;> cases hc
    exact .rewindOpen hp
  case wrBlocks d =>
    obtain ⟨hd, e⟩ | ⟨hd, hp, e⟩ | ⟨_, _, e⟩ := execWrBlocks_cases d s <;>
      rw [e] at h <;> cases h <;> cases hc
    · exact .blocksReserved (blocksDataLegal_eq_false_iff.mp hd)
    · exact .blocksClosed ((blocksDataLegal_iff d).mp hd) hp
  case wrSeedData d =>
    obtain ⟨hd, e⟩ | ⟨hd, hp, e⟩ | ⟨hd, hp, hl, e⟩ | ⟨_, _, _, _, e⟩ | ⟨_, _, _, _, e⟩ :=
      execWrSeedData_cases d s <;> rw [e] at h <;> cases h <;> cases hc
    · exact .seedReserved (seedDataLegal_eq_false_iff.mp hd)
    · exact .seedClosed ((seedDataLegal_iff d).mp hd) hp
    · exact .seedOverflow ((seedDataLegal_iff d).mp hd) hp hl
  case rdOutData =>
    obtain ⟨hp, e⟩ | ⟨hp, he, e⟩ | ⟨_, _, _, e⟩ | ⟨_, _, _, _, _, e⟩ | ⟨_, _, _, _, _, e⟩ :=
      execRdOutData_cases s <;> rw [e] at h <;> cases h <;> cases hc
    · exact .outOpen hp
    · exact .outEnd hp he
  all_goals
    cases h
    cases hc

theorem response_eq_err_iff (h : exec i s = .next t) : t.response = .err c ↔ Raises s i c := by
  refine ⟨raises_of_response h, fun hr => ?_⟩
  rw [exec_of_raises hr] at h
  cases h
  rfl

/-! ## The table, read by error code -/

/-- The causes of `E_SEQ` (R256). -/
theorem raises_seq_iff (hwf : i.wellFormed = true) :
    Raises s i .seq ↔
      (i = .init ∧ (s.phase = .pad ∨ s.phase = .chain)) ∨
      (i = .start ∧ s.phase ≠ .seed) ∨
      (i = .rewind ∧ s.phase = .seed) ∨
      ((∃ d, i = .wrBlocks d) ∧ s.phase ≠ .seed) ∨
      ((∃ d, i = .wrSeedData d) ∧ s.phase ≠ .seed) ∨
      (i = .rdOutData ∧ s.phase = .seed) := by
  constructor
  · intro h
    cases h with
    | initBusy hp => exact .inl ⟨rfl, hp⟩
    | startClosed hp => exact .inr (.inl ⟨rfl, hp⟩)
    | rewindOpen hp => exact .inr (.inr (.inl ⟨rfl, hp⟩))
    | blocksClosed _ hp => exact .inr (.inr (.inr (.inl ⟨⟨_, rfl⟩, hp⟩)))
    | seedClosed _ hp => exact .inr (.inr (.inr (.inr (.inl ⟨⟨_, rfl⟩, hp⟩))))
    | outOpen hp => exact .inr (.inr (.inr (.inr (.inr ⟨rfl, hp⟩))))
  · rintro (⟨rfl, hp⟩ | ⟨rfl, hp⟩ | ⟨rfl, hp⟩ | ⟨⟨d, rfl⟩, hp⟩ | ⟨⟨d, rfl⟩, hp⟩ | ⟨rfl, hp⟩)
    · exact .initBusy hp
    · exact .startClosed hp
    · exact .rewindOpen hp
    · exact .blocksClosed ((wellFormed_wrBlocks_iff d).mp hwf) hp
    · exact .seedClosed ((wellFormed_wrSeedData_iff d).mp hwf) hp
    · exact .outOpen hp

/-- The cause of `E_BADLEN` (R257). -/
theorem raises_badLen_iff :
    Raises s i .badLen ↔ i = .start ∧ s.phase = .seed ∧ s.blocks.toNat = 0 := by
  constructor
  · rintro ⟨⟩
    next hp hb => exact ⟨rfl, hp, hb⟩
  · rintro ⟨rfl, hp, hb⟩
    exact .startNoBlocks hp hb

/-- The cause of `E_UNDERRUN` (R258). -/
theorem raises_underrun_iff :
    Raises s i .underrun ↔
      i = .rdOutData ∧ s.phase ≠ .seed ∧ s.outpos.toNat = 64 * s.blocks.toNat := by
  constructor
  · rintro ⟨⟩
    next hp he => exact ⟨rfl, hp, he⟩
  · rintro ⟨rfl, hp, he⟩
    exact .outEnd hp he

/-- The cause of `E_SEEDOVF` (R259). -/
theorem raises_seedOvf_iff (hwf : i.wellFormed = true) :
    Raises s i .seedOvf ↔
      (∃ d, i = .wrSeedData d) ∧ s.phase = .seed ∧ s.seedlen.toNat = 2 ^ 64 - 1 := by
  constructor
  · rintro ⟨⟩
    next d _ hp hl => exact ⟨⟨d, rfl⟩, hp, hl⟩
  · rintro ⟨⟨d, rfl⟩, hp, hl⟩
    exact .seedOverflow ((wellFormed_wrSeedData_iff d).mp hwf) hp hl

/-- R258: after `REWIND` a read is past both its error checks, since the stream is not empty. -/
theorem rewind_leaves_stream_start (hp : s.phase ≠ .seed) (hb : s.blocks.toNat ≠ 0) :
    ∃ u, exec .rewind s = .next u ∧ u.phase ≠ .seed ∧ u.outpos.toNat ≠ 64 * u.blocks.toNat := by
  refine ⟨_, execRewind_of_closed hp, hp, ?_⟩
  show 0 ≠ 64 * s.blocks.toNat
  omega

end

/-! ## The obligations -/

/-- Settles O6: the decoder rejects such a write, and the operation checks its operand before the
phase. -/
theorem reservedBitsRaiseBadVal : Obligations.ReservedBitsRaiseBadVal := by
  refine ⟨fun r s hw h => ?_, fun _ _ hd => exec_of_raises (.blocksReserved hd),
    fun _ _ hd => exec_of_raises (.seedReserved hd)⟩
  have hdec : decode r.word = .error .reservedValue := by
    obtain ⟨ha, hd⟩ | ⟨ha, hd⟩ := h
    · exact decode_of_reserved_blocks hw ha hd
    · exact decode_of_reserved_seed_data hw ha hd
  rw [← State.raiseErr_eq_errorOutcome]
  exact perform_rejected r s .reservedValue hdec

/-- Settles O22: the rows of `Raises` with the code `E_SEQ`. -/
theorem sequenceErrorsExactly : Obligations.SequenceErrorsExactly :=
  fun _ _ _ hwf hrun => (response_eq_err_iff hrun).trans (raises_seq_iff hwf)

/-- Settles O23: the rows of `Raises` with the three codes, and a state that differs in the error
record and the port only. -/
theorem operandErrorsExactly : Obligations.OperandErrorsExactly := by
  intro i s t hwf hrun
  refine ⟨(response_eq_err_iff hrun).trans raises_badLen_iff,
    (response_eq_err_iff hrun).trans raises_underrun_iff,
    (response_eq_err_iff hrun).trans (raises_seedOvf_iff hwf), fun hc => ?_, fun hc => ?_⟩
  · obtain ⟨_, hp, _⟩ := raises_underrun_iff.mp (raises_of_response hrun hc)
    obtain rfl := exec_eq_raiseErr_of_response hrun hc
    exact ⟨rfl, rewind_leaves_stream_start (s := s.raiseErr .underrun) hp⟩
  · obtain rfl := exec_eq_raiseErr_of_response hrun hc
    exact ⟨rfl, rfl, fun _ => rfl⟩

end Sys2Proof.Machine
end

section
/-! What an instruction can do, said once (spec/41_host_operations.md R151 to R165): raise an error of the
table `Raises`, be held, or complete with its effect. -/

namespace Sys2Proof.Machine

/-- Counters of the block have a guard, so that they do not wrap (R137 (b)). -/
theorem toNat_add_one_of_lt {n : Nat} {v : BitVec n} (h : v.toNat + 1 < 2 ^ n) :
    (v + 1#n).toNat = v.toNat + 1 := by
  have hn : 1 < 2 ^ n := by omega
  rw [BitVec.toNat_add, BitVec.toNat_ofNat, Nat.mod_eq_of_lt hn, Nat.mod_eq_of_lt h]

/-! ## The outcomes of `exec` -/

/-- The conditions of the two holds (R152, R158, R159), the checks before them included. -/
inductive Holds (s : State) : Instr → Prop
  | bufferFull {d : Word32} (hd : d.toNat < 2 ^ 8) (hp : s.phase = .seed)
      (hl : s.seedlen.toNat ≠ 2 ^ 64 - 1) (hw : 128 ≤ s.wfill.toNat) : Holds s (.wrSeedData d)
  | noByte (hp : s.phase ≠ .seed) (he : s.outpos.toNat ≠ 64 * s.blocks.toNat)
      (hv : s.outValid = false) : Holds s .rdOutData

/-- What a read without a side effect returns (R157, R160 to R165). -/
def State.registerValue (s : State) : Instr → Option Word32
  | .rdBlocks => some (zext32 s.blocks)
  | .rdStatus => some s.statusWord
  | .rdSeedlenLo => some (s.seedlen.extractLsb' 0 32)
  | .rdSeedlenHi => some (s.seedlen.extractLsb' 32 32)
  | .rdNblk => some (zext32 s.nblk)
  | .rdOutpos => some s.outpos
  | .rdParam => some paramWord
  | _ => none

/-- In state `s` instruction `i` answers next state `t`. -/
inductive Performs (s : State) : Instr → State → Prop
  | error {i : Instr} {c : ErrCode} (h : Raises s i c) : Performs s i (s.raiseErr c)
  | held {i : Instr} (h : Holds s i) : Performs s i s.hold
  | init (hp : s.phase = .seed ∨ s.phase = .done) :
      Performs s .init (s.newExpansion.complete .ok)
  | start (hp : s.phase = .seed) (hb : s.blocks.toNat ≠ 0) :
      Performs s .start ({ s with phase := .pad }.complete .ok)
  | rewind (hp : s.phase ≠ .seed) : Performs s .rewind ({ s with outpos := 0 }.complete .ok)
  | wrBlocks {d : Word32} (hd : d.toNat < 2 ^ 26) (hp : s.phase = .seed) :
      Performs s (.wrBlocks d) ({ s with blocks := blockCount d }.complete .ok)
  | wrSeedData {d : Word32} (hd : d.toNat < 2 ^ 8) (hp : s.phase = .seed)
      (hl : s.seedlen.toNat ≠ 2 ^ 64 - 1) (hw : s.wfill.toNat < 128) :
      Performs s (.wrSeedData d) ({ s with
        wbuf := s.wbuf.write s.wfill.toNat (seedByte d)
        wfill := s.wfill + 1
        seedlen := s.seedlen + 1 }.complete .ok)
  | rdOutData {v : Byte} (hv : s.outValid = true)
      (hread : s.acc.read (streamAddr s.outpos.toNat) = some v) :
      Performs s .rdOutData ({ s with outpos := s.outpos + 1 }.complete (.okRead (zext32 v)))
  | register {i : Instr} {v : Word32} (hv : s.registerValue i = some v) :
      Performs s i (s.complete (.okRead v))

section

variable {i : Instr} {s t : State}

theorem performs_of_exec (h : exec i s = .next t) : Performs s i t := by
  cases i <;> simp only [exec] at h
  case init =>
    obtain ⟨hbusy, e⟩ | ⟨hidle, e⟩ := execInit_cases s <;> rw [e] at h <;> cases h
    · exact .error (.initBusy (s.busy_iff.mp hbusy))
    · refine .init ?_
      rw [← Bool.not_eq_true, State.busy_iff] at hidle
      cases hp : s.phase <;> simp [hp] at hidle ⊢
  case start =>
    obtain ⟨hp, e⟩ | ⟨hp, hb, e⟩ | ⟨hp, hb, e⟩ := execStart_cases s <;> rw [e] at h <;> cases h
    · exact .error (.startClosed hp)
    · exact .error (.startNoBlocks hp (congrArg BitVec.toNat hb))
    · exact .start hp fun h => hb (BitVec.eq_of_toNat_eq h)
  case rewind =>
    obtain ⟨hp, e⟩ | ⟨hp, e⟩ := execRewind_cases s <;> rw [e] at h <;> cases h
    · exact .error (.rewindOpen hp)
    · exact .rewind hp
  case wrBlocks d =>
    obtain ⟨hd, e⟩ | ⟨hd, hp, e⟩ | ⟨hd, hp, e⟩ := execWrBlocks_cases d s <;> rw [e] at h <;> cases h
    · exact .error (.blocksReserved (blocksDataLegal_eq_false_iff.mp hd))
    · exact .error (.blocksClosed ((blocksDataLegal_iff d).mp hd) hp)
    · exact .wrBlocks ((blocksDataLegal_iff d).mp hd) hp
  case wrSeedData d =>
    obtain ⟨hd, e⟩ | ⟨hd, hp, e⟩ | ⟨hd, hp, hl, e⟩ | ⟨hd, hp, hl, hw, e⟩ | ⟨hd, hp, hl, hw, e⟩ :=
      execWrSeedData_cases d s <;> rw [e] at h <;> cases h
    · exact .error (.seedReserved (seedDataLegal_eq_false_iff.mp hd))
    · exact .error (.seedClosed ((seedDataLegal_iff d).mp hd) hp)
    · exact .error (.seedOverflow ((seedDataLegal_iff d).mp hd) hp hl)
    · exact .held (.bufferFull ((seedDataLegal_iff d).mp hd) hp hl hw)
    · exact .wrSeedData ((seedDataLegal_iff d).mp hd) hp hl hw
  case rdOutData =>
    obtain ⟨hp, e⟩ | ⟨hp, he, e⟩ | ⟨hp, he, hv, e⟩ | ⟨v, _, _, hv, hread, e⟩ | ⟨_, _, _, f, _, e⟩ :=
      execRdOutData_cases s <;> rw [e] at h <;> cases h
    · exact .error (.outOpen hp)
    · exact .error (.outEnd hp he)
    · exact .held (.noByte hp he hv)
    · exact .rdOutData hv hread
  all_goals
    cases h
    exact .register rfl

/-- The table of holds is complete: an instruction that is held has a condition in it. -/
theorem holds_of_response (h : exec i s = .next t) (hr : t.response = .held) :
    Holds s i ∧ t = s.hold := by
  cases performs_of_exec h with
  | held hh => exact ⟨hh, rfl⟩
  | _ => cases hr

/-- A condition of the table holds the transaction. -/
theorem exec_of_holds (h : Holds s i) : exec i s = .next s.hold := by
  cases h with
  | bufferFull hd hp hl hw => exact execWrSeedData_of_full hd hp (by omega) hw
  | noByte hp he hv =>
    rw [← State.streamLength_eq] at he
    simpa [exec, hp, he, hv] using execRdOutData_cases s

theorem response_eq_held_iff (h : exec i s = .next t) : t.response = .held ↔ Holds s i := by
  refine ⟨fun hr => (holds_of_response h hr).1, fun hh => ?_⟩
  rw [exec_of_holds hh] at h
  cases h
  rfl

end

end Sys2Proof.Machine
end

section
/-! What the engine's turn can do, said once (spec/42_engine_steps.md R191 to R197): the condition of each
step in propositions, the bytes it reads, and the state it leaves. -/

namespace Sys2Proof.Machine

section

variable {s t : State}

/-! ## "Enabled when" of each step -/

theorem seedBlk_enabled_iff :
    EngineStep.enabled s .seedBlk = true ↔
      (s.phase = .seed ∨ s.phase = .pad) ∧ s.wfill.toNat = 128 := by
  simp [EngineStep.enabled]

theorem pad1_enabled_iff :
    EngineStep.enabled s .pad1 = true ↔
      s.phase = .pad ∧ 112 ≤ s.wfill.toNat ∧ s.wfill.toNat ≤ 127 := by
  simp [EngineStep.enabled]

theorem seedFinal_enabled_iff :
    EngineStep.enabled s .seedFinal = true ↔ s.phase = .pad ∧ s.wfill.toNat ≤ 111 := by
  simp [EngineStep.enabled]

theorem absorb_enabled_iff :
    EngineStep.enabled s .absorb = true ↔
      s.phase = .chain ∧ s.nblk.toNat % 2 = 0 ∧ s.nabs.toNat + 1 = s.nblk.toNat / 2 := by
  simp [EngineStep.enabled]

theorem final_enabled_iff :
    EngineStep.enabled s .final = true ↔
      s.phase = .chain ∧ s.nabs.toNat = s.nblk.toNat / 2 := by
  simp [EngineStep.enabled]

/-- The enabled step is the one that the engine's turn takes, whatever the order of the list. -/
theorem enabledStep_eq_some_iff {e : EngineStep} : enabledStep s = some e ↔ e.enabled s = true := by
  refine ⟨fun h => by simpa using List.find?_some h, fun h => ?_⟩
  cases e with
  | seedBlk =>
    obtain ⟨hp, hw⟩ := seedBlk_enabled_iff.mp h
    exact enabledStep_of_full hp hw
  | pad1 =>
    obtain ⟨hp, hlo, hhi⟩ := pad1_enabled_iff.mp h
    exact enabledStep_of_pad1 hp hlo hhi
  | seedFinal =>
    obtain ⟨hp, hw⟩ := seedFinal_enabled_iff.mp h
    exact enabledStep_of_seedFinal hp hw
  | absorb =>
    obtain ⟨hp, heven, hnabs⟩ := absorb_enabled_iff.mp h
    exact enabledStep_of_absorb hp heven hnabs
  | final =>
    obtain ⟨hp, hnabs⟩ := final_enabled_iff.mp h
    exact enabledStep_of_final hp hnabs

theorem engineTurn_of_idle (h : ∀ e : EngineStep, e.enabled s = false) :
    engineTurn s = .next s := by
  obtain ⟨e, he, -⟩ | ⟨-, hrun⟩ := engineTurn_cases s
  · rw [h e] at he
    cases he
  · exact hrun

/-- R191: without a full buffer there is no step in `SEED`, and in `DONE` there is none. -/
theorem enabled_eq_false_of_idle
    (h : s.phase = .done ∨ (s.phase = .seed ∧ s.wfill.toNat < 128)) (e : EngineStep) :
    e.enabled s = false := by
  obtain hp | ⟨hp, hw⟩ := h
  · cases e <;> simp [EngineStep.enabled, hp]
  · cases e <;> simp [EngineStep.enabled, hp, hw.ne]

/-! ## The state a step leaves -/

/-- In state `s` the engine's turn gives next state `t`: idle, or one of the five steps, with the bytes
it reads. The new `MS` of `E_ABSORB` is a variable with an equation, so that comparing the two states does
not open the compression. -/
inductive EngineActs (s : State) : State → Prop
  | idle (h : ∀ e : EngineStep, e.enabled s = false) : EngineActs s s
  | seedBlk {b : List Byte} (hp : s.phase = .seed ∨ s.phase = .pad) (hw : s.wfill.toNat = 128)
      (hlen : b.length = 128) (hread : ∀ k, k < 128 → s.wbuf.read k = b[k]?) :
      EngineActs s { s with hs := compress s.hs b, wfill := 0 }
  | pad1 {w : List Byte} (hp : s.phase = .pad) (hlo : 112 ≤ s.wfill.toNat)
      (hhi : s.wfill.toNat ≤ 127) (hlen : w.length = s.wfill.toNat)
      (hread : ∀ k, k < s.wfill.toNat → s.wbuf.read k = w[k]?) :
      EngineActs s { s with hs := compress s.hs (pad1Block w), wfill := 0, pad80 := true }
  | seedFinal {w : List Byte} (hp : s.phase = .pad) (hw : s.wfill.toNat ≤ 111)
      (hlen : w.length = s.wfill.toNat)
      (hread : ∀ k, k < s.wfill.toNat → s.wbuf.read k = w[k]?) :
      EngineActs s { s with
        hs := compress s.hs (seedFinalBlock s.pad80 w s.seedlen.toNat)
        acc := s.acc.writeBytes 0
          (digestBytes (compress s.hs (seedFinalBlock s.pad80 w s.seedlen.toNat)))
        nblk := 1
        nabs := 0
        pad80 := false
        wfill := 0
        ms := iv
        phase := if s.hashGoal = 1 then .done else .chain }
  | absorb {b : List Byte} (hp : s.phase = .chain) (heven : s.nblk.toNat % 2 = 0)
      (hnabs : s.nabs.toNat + 1 = s.nblk.toNat / 2) (hlen : b.length = 128)
      (hread : ∀ k, k < 128 → s.acc.read (128 * s.nabs.toNat + k) = b[k]?)
      {ms : Chaining} (hms : ms = compress s.ms b) :
      EngineActs s { s with ms := ms, nabs := s.nabs + 1 }
  | final {d : List Byte} (hp : s.phase = .chain) (hnabs : s.nabs.toNat = s.nblk.toNat / 2)
      (hread : s.nblk.toNat % 2 = 1 → d.length = 64 ∧
        ∀ k, k < 64 → s.acc.read (64 * (s.nblk.toNat - 1) + k) = d[k]?) :
      EngineActs s { s with
        acc := s.acc.writeBytes (64 * s.nblk.toNat)
          (digestBytes (compress s.ms (finalBlock s.nblk.toNat d)))
        nblk := s.nblk + 1
        phase := if s.nblk.toNat + 1 = s.hashGoal then .done else .chain }

/-- The bytes that `memRead` answers stand in `WBUF`. -/
theorem read_wbuf_of_memRead {w : List Byte} {n : Nat} (h : memRead s .wbuf 0 n = .ok w) :
    w.length = n ∧ ∀ k, k < n → s.wbuf.read k = w[k]? := by
  obtain ⟨hlen, hread⟩ := (memRead_ok_iff s .wbuf 0 n w).mp h
  exact ⟨hlen, fun k hk => by simpa using (hread k hk).2⟩

/-- The bytes that `memRead` answers stand in `ACC`. -/
theorem read_acc_of_memRead {b : List Byte} {a n : Nat} (h : memRead s .acc a n = .ok b) :
    b.length = n ∧ ∀ k, k < n → s.acc.read (a + k) = b[k]? := by
  obtain ⟨hlen, hread⟩ := (memRead_ok_iff s .acc a n b).mp h
  exact ⟨hlen, fun k hk => (hread k hk).2⟩

theorem read_of_readLastBlock {d : List Byte} {i : Nat} (h : readLastBlock s i = .ok d)
    (hodd : i % 2 = 1) : d.length = 64 ∧ ∀ k, k < 64 → s.acc.read (64 * (i - 1) + k) = d[k]? := by
  rw [readLastBlock, if_pos hodd] at h
  exact read_acc_of_memRead h

theorem engineActs_of_engineTurn (h : engineTurn s = .next t) : EngineActs s t := by
  obtain ⟨hidle, rfl⟩ | ⟨he, b, hb, rfl⟩ | ⟨he, w, hw, rfl⟩ | ⟨he, w, hw, rfl⟩ | ⟨he, b, hb, rfl⟩ |
    ⟨he, -, d, hd, rfl⟩ := engineTurn_next_cases s t h
  · exact .idle hidle
  · obtain ⟨hp, hfull⟩ := seedBlk_enabled_iff.mp he
    obtain ⟨hlen, hread⟩ := read_wbuf_of_memRead hb
    exact .seedBlk hp hfull hlen hread
  · obtain ⟨hp, hlo, hhi⟩ := pad1_enabled_iff.mp he
    obtain ⟨hlen, hread⟩ := read_wbuf_of_memRead hw
    exact .pad1 hp hlo hhi hlen hread
  · obtain ⟨hp, hle⟩ := seedFinal_enabled_iff.mp he
    obtain ⟨hlen, hread⟩ := read_wbuf_of_memRead hw
    exact .seedFinal hp hle hlen hread
  · obtain ⟨hp, heven, hnabs⟩ := absorb_enabled_iff.mp he
    obtain ⟨hlen, hread⟩ := read_acc_of_memRead hb
    exact .absorb hp heven hnabs hlen hread rfl
  · obtain ⟨hp, hnabs⟩ := final_enabled_iff.mp he
    rw [hp]
    exact .final hp hnabs (read_of_readLastBlock hd)

theorem engineTurn_of_engineActs (h : EngineActs s t) : engineTurn s = .next t := by
  cases h with
  | idle h => exact engineTurn_of_idle h
  | seedBlk hp hw hlen hread => exact (seedBlockStep s _ hp hw hlen hread).1
  | pad1 hp hlo hhi hlen hread =>
    rw [engineTurn_of_enabledStep (enabledStep_of_pad1 hp hlo hhi)]
    exact enginePad1_ok s _ (memRead_wbuf (by omega) hlen hread)
  | seedFinal hp hw hlen hread =>
    rw [engineTurn_of_enabledStep (enabledStep_of_seedFinal hp hw)]
    exact engineSeedFinal_ok s _ (memRead_wbuf (by omega) hlen hread)
  | absorb hp heven hnabs hlen hread hms =>
    rw [hms]
    exact (absorbStep s _ hp heven hnabs hlen hread).1
  | final hp hnabs hread =>
    have hlt : s.nblk.toNat < 1024 := by omega
    rw [engineTurn_of_enabledStep (enabledStep_of_final hp hnabs), EngineStep.run,
      engineFinal_ok s _ (readLastBlock_ok hlt hread) hlt, finalBlock_ite, hp]

theorem engineTurn_eq_next_iff : engineTurn s = .next t ↔ EngineActs s t :=
  ⟨engineActs_of_engineTurn, engineTurn_of_engineActs⟩

end

end Sys2Proof.Machine
end

section
/-! What one step can do, said once (spec/20_memory.md R73): the turn is taken off the schedule, and the
agent whose turn it is acts. -/

namespace Sys2Proof.Machine

/-- In state `s`, with turn `turn` taken off the schedule already, the agent whose turn it is gives next
state `t`. -/
inductive Acts (s : State) : Turn → State → Prop
  | reset : Acts s .reset s.assertReset
  | engine {t : State} (h : EngineActs s t) : Acts s .engine t
  | performed {r : BusReq} {i : Instr} {t : State} (hb : s.bus = some r)
      (hi : decode r.word = .ok i) (h : Performs s i t) : Acts s .host t
  | rejected {r : BusReq} {e : Reject} (hb : s.bus = some r) (he : decode r.word = .error e) :
      Acts s .host (s.raiseErr (rejectCode e))
  | presented (hb : s.bus = none) : Acts s .host (present s)

theorem takeTurn_snd (s : State) :
    ∃ sched n, (takeTurn s).2 = { s with schedule := sched, turnCount := n } := by
  unfold takeTurn
  split
  · exact ⟨_, _, rfl⟩
  · exact ⟨_, _, rfl⟩

theorem acts_of_step {s t : State} (h : step s = .next t) :
    ∃ sched n, Acts { s with schedule := sched, turnCount := n } (takeTurn s).1 t := by
  obtain ⟨sched, n, hsnd⟩ := takeTurn_snd s
  refine ⟨sched, n, ?_⟩
  rw [← hsnd]
  obtain ⟨hturn, e⟩ | ⟨hturn, e⟩ | ⟨r, hturn, hb, e⟩ | ⟨hturn, hb, e⟩ := step_cases s <;>
    rw [e] at h <;> rw [hturn]
  · cases h
    exact .reset
  · exact .engine (engineActs_of_engineTurn h)
  · have hb' : (takeTurn s).2.bus = some r := by rw [hsnd]; exact hb
    cases hdec : decode r.word with
    | ok i => exact .performed hb' hdec (performs_of_exec ((perform_ok r _ i hdec).symm.trans h))
    | error e =>
      cases (perform_rejected r _ e hdec).symm.trans h
      exact .rejected hb' hdec
  · cases h
    exact .presented (by rw [hsnd]; exact hb)

/-- What the host presents touches the port and the script alone. -/
theorem present_eq (s : State) :
    ∃ b r rest, present s = { s with bus := b, response := r, script := rest } := by
  obtain ⟨-, e⟩ | ⟨r, rest, e⟩ | ⟨rest, -, -, e⟩ := present_cases s
  · exact ⟨_, _, _, e⟩
  · exact ⟨_, _, _, e⟩
  · exact ⟨_, _, _, e⟩

end Sys2Proof.Machine
end

section
/-! The invariants of every reachable state (spec/10_state.md R26, R32, R35, R39, R44): they hold at reset
and every step of either agent keeps them. -/

namespace Sys2Proof.Machine

/-- A state with the values that reset and `INIT` share is consistent, whatever the storages hold: every
counter is 0, and nothing that may be read has to be there. -/
theorem State.consistent_of_new {s : State} (hp : s.phase = .seed) (hpad : s.pad80 = false)
    (hw : s.wfill = 0) (hl : s.seedlen = 0) (hn : s.nblk = 0) (ho : s.outpos = 0)
    (he : s.err = false) (hc : s.errcode = 0) (hwbuf : s.wbuf.wf 128 = true)
    (hacc : s.acc.wf 65536 = true) : s.Consistent := by
  constructor <;> simp_all

/-- Settles O40: reset gives the values of a new expansion, and both storages list nothing. -/
theorem resetIsConsistent : Obligations.ResetIsConsistent :=
  State.consistent_of_new rfl rfl rfl rfl rfl rfl rfl rfl State.reset_storages_wf.2
    State.reset_storages_wf.1

section

variable {s t : State} {i : Instr}

/-! ## What the invariants do not look at -/

/-- The port, the script and the schedule are no part of the invariants. -/
theorem State.Consistent.interface (hs : s.Consistent) {b : Option BusReq} {r : Response}
    {script : List HostAction} {sched : List Turn} {n : Nat} :
    ({ s with bus := b, response := r, script := script, schedule := sched, turnCount := n } :
      State).Consistent :=
  { hs with }

theorem State.Consistent.complete (hs : s.Consistent) (r : Response) : (s.complete r).Consistent :=
  hs.interface

theorem State.Consistent.hold (hs : s.Consistent) : s.hold.Consistent := hs.interface

theorem State.Consistent.assertReset (s : State) : s.assertReset.Consistent :=
  resetIsConsistent.interface

theorem State.Consistent.present (hs : s.Consistent) : (present s).Consistent := by
  obtain ⟨b, r, rest, e⟩ := present_eq s
  rw [e]
  exact hs.interface

/-- R255: the record of an error is one of the seven codes. -/
theorem State.Consistent.raiseErr (hs : s.Consistent) (c : ErrCode) : (s.raiseErr c).Consistent :=
  { hs with
    errcode_zero := nofun
    errcode_le := by
      rw [State.raiseErr_errcode]
      split
      · exact hs.errcode_le
      · cases c <;> decide }

/-! ## The instructions -/

/-- In `SEED` there is no Digest Block, and so no goal is reached. -/
theorem State.Consistent.nblk_eq_zero_of_seed (hs : s.Consistent) (hp : s.phase = .seed) :
    s.nblk.toNat = 0 :=
  hs.nblk_zero (.inl hp)

theorem State.Consistent.performs (hs : s.Consistent) (h : Performs s i t) : t.Consistent := by
  cases h with
  | error _ => exact hs.raiseErr _
  | held _ => exact hs.hold
  | register _ => exact hs.complete _
  | init _ =>
    exact State.consistent_of_new rfl rfl rfl rfl rfl rfl rfl rfl hs.wbuf_wf hs.acc_wf
  | start hp hb =>
    have hn := hs.nblk_eq_zero_of_seed hp
    have ho := hs.outpos_zero (.inl hp)
    refine State.Consistent.complete ?_ _
    exact { hs with
      wfill_mod := nofun
      nblk_zero := fun _ => hn
      done_iff := ⟨nofun, fun ⟨_, hpos⟩ => by simp [hn] at hpos⟩
      chain_lt := nofun
      blocks_pos := fun _ => Nat.one_le_iff_ne_zero.mpr hb
      outpos_zero := fun _ => ho
      pad80_pad := fun hpad => by simp [(hs.pad80_pad hpad).1] at hp
      nabs_eq := by rintro (h | h) <;> cases h }
  | rewind hp =>
    refine State.Consistent.complete ?_ _
    exact { hs with
      outpos_le := Nat.zero_le _
      outpos_zero := fun _ => rfl
      outpos_exists := .inl (Nat.zero_le _) }
  | wrBlocks hd hp =>
    have hn := hs.nblk_eq_zero_of_seed hp
    have ho := hs.outpos_zero (.inl hp)
    refine State.Consistent.complete ?_ _
    exact { hs with
      done_iff := ⟨fun hdone => by simp [hp] at hdone, fun ⟨_, hpos⟩ => by simp [hn] at hpos⟩
      chain_lt := fun hchain => by simp [hp] at hchain
      blocks_pos := fun hopen => absurd hp hopen
      outpos_le := by simp [ho] }
  | wrSeedData hd hp hl hw =>
    have hfill : (s.wfill + 1).toNat = s.wfill.toNat + 1 := toNat_add_one_of_lt (by omega)
    have hlen : (s.seedlen + 1).toNat = s.seedlen.toNat + 1 := toNat_add_one_of_lt (by omega)
    have hmod := hs.wfill_mod hp hw
    refine State.Consistent.complete ?_ _
    exact { hs with
      wfill_le := by dsimp only; omega
      wfill_mod := fun _ hlt => by dsimp only at hlt ⊢; omega
      wfill_full := fun hfull => by dsimp only at hfull ⊢; omega
      pad80_pad := fun hpad => by simp [(hs.pad80_pad hpad).1] at hp
      wbuf_written := fun k hk => by
        dsimp only at hk ⊢
        by_cases hlast : k = s.wfill.toNat
        · rw [hlast, Mem.read_write_same]; rfl
        · rw [Mem.read_write_other _ _ hlast]
          exact hs.wbuf_written k (by omega)
      wbuf_wf := Mem.wf_write _ _ hw hs.wbuf_wf }
  | rdOutData hv hread =>
    obtain ⟨hphase, hlt, hexists⟩ := s.outValid_iff.mp hv
    have hpos : (s.outpos + 1).toNat = s.outpos.toNat + 1 :=
      toNat_add_one_of_lt (by have := s.blocks.isLt; omega)
    refine State.Consistent.complete ?_ _
    exact { hs with
      outpos_le := by rw [State.streamLength_eq]; dsimp only; omega
      outpos_zero := fun hp => by rcases hphase with h | h <;> simp [h] at hp
      outpos_exists := by dsimp only; omega }

/-! ## The engine -/

/-- A larger accumulator: block `n` after the blocks before it. -/
theorem Mem.isSome_read_writeBytes_digest {m : Mem} {n : Nat}
    (hm : ∀ a < 64 * n, (m.read a).isSome) (c : Chaining) :
    ∀ a < 64 * (n + 1), ((m.writeBytes (64 * n) (digestBytes c)).read a).isSome := by
  intro a ha
  by_cases hold : a < 64 * n
  · rw [Mem.read_writeBytes_digest_outside _ _ (.inl hold)]
    exact hm a hold
  · obtain ⟨k, rfl⟩ : ∃ k, a = 64 * n + k := ⟨a - 64 * n, by omega⟩
    rw [Mem.read_writeBytes_digest_inside _ _ _ (by omega), isSome_getElem?,
      digestBytes_length]
    omega

theorem Mem.wf_writeBytes_digest {m : Mem} {n : Nat} (hn : n < 1024) (c : Chaining)
    (hm : m.wf 65536 = true) : (m.writeBytes (64 * n) (digestBytes c)).wf 65536 = true :=
  m.wf_writeBytes _ (by rw [digestBytes_length]; omega) hm

/-- A further Digest Block, the first or a later one: `PHASE` says whether it is the last, and its pair is
still to be absorbed. -/
theorem State.Consistent.newBlock {c : Chaining} (hs : s.Consistent)
    (hlt : s.nblk.toNat < s.hashGoal)
    (hnblk : t.nblk.toNat = s.nblk.toNat + 1) (hnabs : t.nabs.toNat = s.nblk.toNat / 2)
    (hphase : t.phase = if s.nblk.toNat + 1 = s.hashGoal then .done else .chain)
    (hacc : t.acc = s.acc.writeBytes (64 * s.nblk.toNat) (digestBytes c))
    (hblocks : t.blocks = s.blocks) (houtpos : t.outpos = s.outpos)
    (herr : t.err = s.err) (hcode : t.errcode = s.errcode) (hpad : t.pad80 = false)
    (hw : t.wfill = 0 ∨ t.wfill = s.wfill) (hseedlen : t.seedlen = s.seedlen)
    (hwbuf : t.wbuf = s.wbuf) : t.Consistent := by
  have hgoal : t.hashGoal = s.hashGoal := by rw [State.hashGoal, hblocks, State.hashGoal]
  have hcap := s.hashGoal_eq
  have hchain : (t.phase = .chain ∧ s.nblk.toNat + 1 ≠ s.hashGoal) ∨
      (t.phase = .done ∧ s.nblk.toNat + 1 = s.hashGoal) := by
    rw [hphase]
    split <;> simp_all
  have hnot : ¬ (t.phase = .seed ∨ t.phase = .pad) := by
    rcases hchain with ⟨h, -⟩ | ⟨h, -⟩ <;> simp [h]
  exact {
    wfill_le := by
      rcases hw with h | h <;> rw [h]
      · exact Nat.zero_le _
      · exact hs.wfill_le
    wfill_mod := fun hseed => absurd (.inl hseed) hnot
    wfill_full := by
      rw [hseedlen]
      rcases hw with h | h <;> rw [h]
      · exact nofun
      · exact hs.wfill_full
    nblk_zero := fun h => absurd h hnot
    done_iff := by
      rw [hnblk, hgoal]
      rcases hchain with ⟨h, hne⟩ | ⟨h, heq⟩
      · exact iff_of_false (by simp [h]) fun hgoal => hne hgoal.1
      · exact iff_of_true h ⟨heq, by omega⟩
    chain_lt := fun h => by
      obtain ⟨-, hne⟩ | ⟨hdone, -⟩ := hchain
      · rw [hnblk, hgoal]
        omega
      · rw [hdone] at h
        cases h
    blocks_pos := fun _ => by
      rw [hblocks]
      omega
    outpos_le := by
      rw [houtpos, State.streamLength, hblocks]
      exact hs.outpos_le
    outpos_zero := fun h => absurd h hnot
    outpos_exists := by
      rw [houtpos, hnblk]
      have := hs.outpos_exists
      omega
    pad80_pad := fun h => by simp [hpad] at h
    nabs_eq := fun _ => by
      rw [hnblk, hnabs]
      omega
    errcode_zero := by
      rw [herr, hcode]
      exact hs.errcode_zero
    errcode_le := by
      rw [hcode]
      exact hs.errcode_le
    wbuf_written := by
      rw [hwbuf]
      rcases hw with h | h <;> rw [h]
      · exact nofun
      · exact hs.wbuf_written
    acc_written := by
      rw [hnblk, hacc]
      exact Mem.isSome_read_writeBytes_digest hs.acc_written c
    wbuf_wf := by
      rw [hwbuf]
      exact hs.wbuf_wf
    acc_wf := by
      rw [hacc]
      exact Mem.wf_writeBytes_digest (by omega) c hs.acc_wf }

/-- While the chain is under way `NABS` and `NBLK` are below their limits. -/
theorem State.Consistent.nabs_succ (hs : s.Consistent) (hp : s.phase = .chain)
    (hnabs : s.nabs.toNat + 1 = s.nblk.toNat / 2) : (s.nabs + 1).toNat = s.nabs.toNat + 1 := by
  have hlt := (hs.chain_lt hp).2
  have hcap := s.hashGoal_eq
  exact toNat_add_one_of_lt (by omega)

theorem State.Consistent.nblk_succ (hs : s.Consistent) (hp : s.phase = .chain) :
    (s.nblk + 1).toNat = s.nblk.toNat + 1 := by
  have hlt := (hs.chain_lt hp).2
  have hcap := s.hashGoal_eq
  exact toNat_add_one_of_lt (by omega)

/-- Once the seed is closed there is a block to hash. -/
theorem State.Consistent.hashGoal_pos (hs : s.Consistent) (hp : s.phase ≠ .seed) :
    0 < s.hashGoal := by
  have hb := hs.blocks_pos hp
  rw [State.hashGoal_eq]
  omega

theorem State.Consistent.engineActs (hs : s.Consistent) (h : EngineActs s t) : t.Consistent := by
  cases h with
  | idle _ => exact hs
  | seedBlk hp hw hlen hread =>
    have hfull := (hs.wfill_full hw).1
    exact { hs with
      wfill_le := Nat.zero_le _
      wfill_mod := fun _ _ => hfull.symm
      wfill_full := nofun
      pad80_pad := fun hpad => ⟨(hs.pad80_pad hpad).1, rfl⟩
      wbuf_written := nofun }
  | pad1 hp hlo hhi hlen hread =>
    exact { hs with
      wfill_le := Nat.zero_le _
      wfill_mod := fun hseed => by simp [hp] at hseed
      wfill_full := nofun
      pad80_pad := fun _ => ⟨hp, rfl⟩
      wbuf_written := nofun }
  | seedFinal hp hw hlen hread =>
    have hn := hs.nblk_zero (.inr hp)
    have hgoal := hs.hashGoal_pos (by simp [hp])
    exact hs.newBlock (by rwa [hn]) (by simp [hn]) (by simp [hn]) (by simp [hn, eq_comm])
      (by rw [hn]) rfl rfl rfl rfl rfl (.inl rfl) rfl rfl
  | absorb hp heven hnabs hlen hread hms =>
    exact { hs with nabs_eq := fun _ => .inl ((hs.nabs_succ hp hnabs).trans hnabs) }
  | final hp hnabs hread =>
    have hpad : s.pad80 = false := by
      rw [← Bool.not_eq_true]
      exact fun hpad => by simp [(hs.pad80_pad hpad).1] at hp
    exact hs.newBlock (hs.chain_lt hp).2 (hs.nblk_succ hp) hnabs rfl rfl rfl rfl rfl rfl hpad
      (.inr rfl) rfl rfl

/-! ## Every step -/

theorem State.Consistent.acts {turn : Turn} (hs : s.Consistent) (h : Acts s turn t) :
    t.Consistent := by
  cases h with
  | reset => exact State.Consistent.assertReset s
  | engine h => exact hs.engineActs h
  | performed _ _ h => exact hs.performs h
  | rejected _ _ => exact hs.raiseErr _
  | presented _ => exact hs.present

end

/-- Settles O41: one lemma for each agent and for reset, over all that it can do. -/
theorem everyStepKeepsConsistent : Obligations.EveryStepKeepsConsistent := by
  intro s t hs hstep
  obtain ⟨sched, n, hacts⟩ := acts_of_step hstep
  have hs' : ({ s with schedule := sched, turnCount := n } : State).Consistent := hs.interface
  exact hs'.acts hacts

end Sys2Proof.Machine
end

section
/-! No step stops (spec/10_state.md R44): what a consistent state holds is enough for every read, and while
the block is busy a step is enabled (spec/42_engine_steps.md R191, R197). -/

namespace Sys2Proof.Machine

/-- Written cells hold a byte string. -/
theorem Mem.exists_bytes {m : Mem} {a n : Nat} (h : ∀ j, j < n → (m.read (a + j)).isSome) :
    ∃ bs : List Byte, bs.length = n ∧ ∀ j, j < n → m.read (a + j) = bs[j]? := by
  refine ⟨(List.range n).map fun j => (m.read (a + j)).getD 0, by simp, fun j hj => ?_⟩
  obtain ⟨v, hv⟩ := Option.isSome_iff_exists.mp (h j hj)
  simp [hj, hv]

section

variable {s : State}

/-! ## Which step is enabled -/

/-- R191, R197: in a consistent state the engine is idle, or one of the five conditions holds. -/
theorem State.Consistent.engine_cases (hs : s.Consistent) :
    (s.phase = .done ∨ (s.phase = .seed ∧ s.wfill.toNat < 128)) ∨
    ((s.phase = .seed ∨ s.phase = .pad) ∧ s.wfill.toNat = 128) ∨
    (s.phase = .pad ∧ 112 ≤ s.wfill.toNat ∧ s.wfill.toNat ≤ 127) ∨
    (s.phase = .pad ∧ s.wfill.toNat ≤ 111) ∨
    (s.phase = .chain ∧ s.nblk.toNat % 2 = 0 ∧ s.nabs.toNat + 1 = s.nblk.toNat / 2) ∨
    (s.phase = .chain ∧ s.nabs.toNat = s.nblk.toNat / 2) := by
  have hle := hs.wfill_le
  cases hp : s.phase with
  | seed =>
    obtain hlt | hfull := hle.lt_or_eq
    · exact .inl (.inr ⟨rfl, hlt⟩)
    · exact .inr (.inl ⟨.inl rfl, hfull⟩)
  | pad =>
    obtain hroom | hno | hfull : s.wfill.toNat ≤ 111 ∨
        (112 ≤ s.wfill.toNat ∧ s.wfill.toNat ≤ 127) ∨ s.wfill.toNat = 128 := by omega
    · exact .inr (.inr (.inr (.inl ⟨rfl, hroom⟩)))
    · exact .inr (.inr (.inl ⟨rfl, hno⟩))
    · exact .inr (.inl ⟨.inr rfl, hfull⟩)
  | chain =>
    obtain hall | ⟨heven, -, hpair⟩ := hs.nabs_eq (.inl hp)
    · exact .inr (.inr (.inr (.inr (.inr ⟨rfl, hall⟩))))
    · exact .inr (.inr (.inr (.inr (.inl ⟨rfl, heven, hpair⟩))))
  | done => exact .inl (.inl rfl)

theorem State.Consistent.exists_enabled (hs : s.Consistent)
    (hp : s.phase = .pad ∨ s.phase = .chain) : ∃ e : EngineStep, e.enabled s = true := by
  obtain (h | ⟨h, -⟩) | h | h | h | h | h := hs.engine_cases
  · simp [h] at hp
  · simp [h] at hp
  · exact ⟨.seedBlk, seedBlk_enabled_iff.mpr h⟩
  · exact ⟨.pad1, pad1_enabled_iff.mpr h⟩
  · exact ⟨.seedFinal, seedFinal_enabled_iff.mpr h⟩
  · exact ⟨.absorb, absorb_enabled_iff.mpr h⟩
  · exact ⟨.final, final_enabled_iff.mpr h⟩

/-- Settles O37: an enabled step is the one that `enabledStep` answers, so there are no two. -/
theorem engineIsDeterministic : Obligations.EngineIsDeterministic := by
  refine ⟨fun s e f he hf => ?_, fun s => State.Consistent.exists_enabled, fun s hp => ?_⟩
  · exact Option.some.inj
      ((enabledStep_eq_some_iff.mpr he).symm.trans (enabledStep_eq_some_iff.mpr hf))
  · exact ⟨enabled_eq_false_of_idle hp, engineTurn_of_idle (enabled_eq_false_of_idle hp)⟩

/-! ## Progress -/

/-- The bytes of `WBUF` that a step reads are there. -/
theorem State.Consistent.exists_wbuf (hs : s.Consistent) :
    ∃ w : List Byte, w.length = s.wfill.toNat ∧
      ∀ k, k < s.wfill.toNat → s.wbuf.read k = w[k]? := by
  obtain ⟨w, hlen, hread⟩ := Mem.exists_bytes (m := s.wbuf) (a := 0) (n := s.wfill.toNat)
    fun j hj => by simpa using hs.wbuf_written j hj
  exact ⟨w, hlen, fun k hk => by simpa using hread k hk⟩

/-- The bytes of the Digest Blocks are there. -/
theorem State.Consistent.exists_acc (hs : s.Consistent) {a n : Nat}
    (h : a + n ≤ 64 * s.nblk.toNat) :
    ∃ bs : List Byte, bs.length = n ∧ ∀ j, j < n → s.acc.read (a + j) = bs[j]? :=
  Mem.exists_bytes fun j hj => hs.acc_written (a + j) (by omega)

theorem State.Consistent.engine_progress (hs : s.Consistent) : ∃ t, engineTurn s = .next t := by
  simp only [engineTurn_eq_next_iff]
  obtain ⟨w, hlen, hread⟩ := hs.exists_wbuf
  obtain h | ⟨hp, hw⟩ | ⟨hp, hlo, hhi⟩ | ⟨hp, hw⟩ | ⟨hp, heven, hnabs⟩ | ⟨hp, hnabs⟩ :=
    hs.engine_cases
  · exact ⟨_, .idle (enabled_eq_false_of_idle h)⟩
  · rw [hw] at hlen hread
    exact ⟨_, .seedBlk hp hw hlen hread⟩
  · exact ⟨_, .pad1 hp hlo hhi hlen hread⟩
  · exact ⟨_, .seedFinal hp hw hlen hread⟩
  · obtain ⟨b, hlen, hread⟩ := hs.exists_acc (a := 128 * s.nabs.toNat) (n := 128) (by omega)
    exact ⟨_, .absorb hp heven hnabs hlen hread rfl⟩
  · have hpos := (hs.chain_lt hp).1
    obtain ⟨d, hlen, hread⟩ := hs.exists_acc (a := 64 * (s.nblk.toNat - 1)) (n := 64) (by omega)
    exact ⟨_, .final hp hnabs fun _ => ⟨hlen, hread⟩⟩

/-- Where the next stream byte is valid its cell has been written (R36, R44). -/
theorem State.Consistent.exists_stream_byte (hs : s.Consistent) (hv : s.outValid = true) :
    ∃ v, s.acc.read (streamAddr s.outpos.toNat) = some v := by
  obtain ⟨-, hlt, hexists⟩ := s.outValid_iff.mp hv
  have haddr := streamAddr_lt s.outpos.toNat
  have hle := streamAddr_le s.outpos.toNat
  exact Option.isSome_iff_exists.mp (hs.acc_written _ (by omega))

/-- `RD OUT_DATA` is the one instruction that could read an unwritten cell. -/
theorem State.Consistent.exec_progress (hs : s.Consistent) (i : Instr) :
    ∃ t, exec i s = .next t := by
  cases i with
  | init => exact (execInit_cases s).elim (fun h => ⟨_, h.2⟩) (fun h => ⟨_, h.2⟩)
  | start =>
    obtain ⟨-, e⟩ | ⟨-, -, e⟩ | ⟨-, -, e⟩ := execStart_cases s
    all_goals exact ⟨_, e⟩
  | rewind => exact (execRewind_cases s).elim (fun h => ⟨_, h.2⟩) (fun h => ⟨_, h.2⟩)
  | wrBlocks d =>
    obtain ⟨-, e⟩ | ⟨-, -, e⟩ | ⟨-, -, e⟩ := execWrBlocks_cases d s
    all_goals exact ⟨_, e⟩
  | wrSeedData d =>
    obtain ⟨-, e⟩ | ⟨-, -, e⟩ | ⟨-, -, -, e⟩ | ⟨-, -, -, -, e⟩ | ⟨-, -, -, -, e⟩ :=
      execWrSeedData_cases d s
    all_goals exact ⟨_, e⟩
  | rdOutData =>
    obtain ⟨-, e⟩ | ⟨-, -, e⟩ | ⟨-, -, -, e⟩ | ⟨_, -, -, -, -, e⟩ | ⟨-, -, hv, -⟩ :=
      execRdOutData_cases s
    · exact ⟨_, e⟩
    · exact ⟨_, e⟩
    · exact ⟨_, e⟩
    · exact ⟨_, e⟩
    · obtain ⟨v, hread⟩ := hs.exists_stream_byte hv
      exact ⟨_, execRdOutData_of_outValid hv hread⟩
  | _ => exact ⟨_, rfl⟩

end

/-- Settles O42: a reset and what the host presents always give a state, and so does a rejected word. -/
theorem consistentStatesNeverStop : Obligations.ConsistentStatesNeverStop := by
  intro s hs
  obtain ⟨sched, n, hsnd⟩ := takeTurn_snd s
  have hs' : (takeTurn s).2.Consistent := by
    rw [hsnd]
    exact hs.interface
  obtain ⟨-, e⟩ | ⟨-, e⟩ | ⟨r, -, -, e⟩ | ⟨-, -, e⟩ := step_cases s <;> rw [e]
  · exact ⟨_, rfl⟩
  · exact hs'.engine_progress
  · cases hdec : decode r.word with
    | ok i =>
      rw [perform_ok r _ i hdec]
      exact hs'.exec_progress i
    | error e => exact ⟨_, perform_rejected r _ e hdec⟩
  · exact ⟨_, rfl⟩

end Sys2Proof.Machine
end

section
/-! The correctness invariant of the hash chain (spec/42_engine_steps.md R200): it holds at reset, every step
keeps it, and which step changes the seed. -/

namespace Sys2Proof.Machine

/-- A state with the values that reset and `INIT` share computes the chain of the empty seed. -/
theorem State.computes_nil_of_new {s : State} (hp : s.phase = .seed) (hw : s.wfill = 0)
    (hl : s.seedlen = 0) (hhs : s.hs = iv) : s.Computes [] where
  length_eq := by simp [hl]
  open_seed := fun _ => ⟨[], [], rfl, rfl, by simp [hw], hhs, by simp [hw]⟩
  half_padded := fun h => by simp [hp] at h
  acc_blocks := fun h => by simp [hp] at h
  midstate := fun h => by simp [hp] at h

/-- Settles O43: nothing has been absorbed and nothing is buffered. -/
theorem resetComputesEmptySeed : Obligations.ResetComputesEmptySeed :=
  State.computes_nil_of_new rfl rfl rfl rfl

section

variable {s t : State} {i : Instr} {seed : List Byte}

/-! ## What the invariant does not look at -/

/-- The block count, the output position, the error record, the port, the script and the schedule are no
part of the invariant. -/
theorem State.Computes.hostSide (hc : s.Computes seed) {blocks : BitVec 26} {outpos : BitVec 32}
    {err : Bool} {errcode : BitVec 4} {b : Option BusReq} {r : Response}
    {script : List HostAction} {sched : List Turn} {n : Nat} :
    ({ s with
      blocks := blocks, outpos := outpos, err := err, errcode := errcode
      bus := b, response := r, script := script, schedule := sched, turnCount := n } :
      State).Computes seed :=
  { hc with }

theorem State.Computes.complete (hc : s.Computes seed) (r : Response) :
    (s.complete r).Computes seed :=
  hc.hostSide

theorem State.Computes.raiseErr (hc : s.Computes seed) (c : ErrCode) :
    (s.raiseErr c).Computes seed :=
  hc.hostSide

theorem State.Computes.present (hc : s.Computes seed) : (present s).Computes seed := by
  obtain ⟨b, r, rest, e⟩ := present_eq s
  rw [e]
  exact hc.hostSide

/-! ## The instructions -/

/-- R158: the appended byte is the last of the part of the seed that is in `WBUF`. -/
theorem State.HoldsSeed.append {b : Byte} (h : s.HoldsSeed seed)
    (hhs : t.hs = s.hs) (hw : t.wfill.toNat = s.wfill.toNat + 1)
    (hwbuf : t.wbuf = s.wbuf.write s.wfill.toNat b) : t.HoldsSeed (seed ++ [b]) := by
  obtain ⟨old, new, rfl, hold, hnew, hold_hs, hread⟩ := h
  refine ⟨old, new ++ [b], List.append_assoc .., hold, by simp [hnew, hw], hhs.trans hold_hs,
    fun k hk => ?_⟩
  rw [hwbuf]
  by_cases hlast : k = s.wfill.toNat
  · rw [hlast, Mem.read_write_same, ← hnew]
    simp
  · rw [Mem.read_write_other _ _ hlast, hread k (by omega),
      List.getElem?_append_left (by omega)]

theorem State.Computes.wrSeedData {d : Word32} (hc : s.Computes seed) (hp : s.phase = .seed)
    (hl : s.seedlen.toNat ≠ 2 ^ 64 - 1) (hw : s.wfill.toNat < 128) :
    ({ s with
      wbuf := s.wbuf.write s.wfill.toNat (seedByte d)
      wfill := s.wfill + 1
      seedlen := s.seedlen + 1 } : State).Computes (seed ++ [seedByte d]) where
  length_eq := by
    have hlen : (s.seedlen + 1).toNat = s.seedlen.toNat + 1 := toNat_add_one_of_lt (by omega)
    rw [List.length_append, List.length_singleton, hc.length_eq]
    exact hlen.symm
  open_seed := fun _ => (hc.open_seed (.inl hp)).append rfl (toNat_add_one_of_lt (by omega)) rfl
  half_padded := fun h => by simp [hp] at h
  acc_blocks := fun h => by simp [hp] at h
  midstate := fun h => by simp [hp] at h

/-- What an instruction makes of the seed: `INIT` begins the empty one, `WR SEED_DATA` appends its byte, and
every other outcome leaves it. -/
theorem State.Computes.performs (hc : s.Computes seed) (hs : s.Consistent) (h : Performs s i t) :
    (i = .init ∧ t.response = .ok ∧ t.Computes []) ∨
    (∃ d : Word32, i = .wrSeedData d ∧ t.response = .ok ∧ (seedByte d).toNat = d.toNat ∧
      t.Computes (seed ++ [seedByte d])) ∨
    ((i = .init ∨ (∃ d, i = .wrSeedData d) → t.response ≠ .ok) ∧ t.Computes seed) := by
  cases h with
  | init _ => exact .inl ⟨rfl, rfl, State.computes_nil_of_new rfl rfl rfl rfl⟩
  | wrSeedData hd hp hl hw =>
    exact .inr (.inl ⟨_, rfl, rfl, seedByte_toNat hd, (hc.wrSeedData hp hl hw).complete _⟩)
  | error _ => exact .inr (.inr ⟨nofun, hc.raiseErr _⟩)
  | held _ => exact .inr (.inr ⟨nofun, hc.hostSide⟩)
  | register _ => exact .inr (.inr ⟨nofun, hc.complete _⟩)
  | rewind _ => exact .inr (.inr ⟨nofun, hc.hostSide⟩)
  | wrBlocks _ _ => exact .inr (.inr ⟨nofun, hc.hostSide⟩)
  | rdOutData _ _ => exact .inr (.inr ⟨nofun, hc.hostSide⟩)
  | start hp _ =>
    refine .inr (.inr ⟨nofun, State.Computes.complete ?_ _⟩)
    exact { hc with
      open_seed := fun _ => hc.open_seed (.inl hp)
      half_padded := fun _ hpad => by simp [(hs.pad80_pad hpad).1] at hp
      acc_blocks := nofun
      midstate := nofun }

/-! ## The engine -/

/-- Compressing one more message block is absorbing a string that is longer by that block (R136). -/
theorem compress_absorb {u b : List Byte} (hu : u.length % 128 = 0) (hb : b.length = 128) :
    compress (absorb iv u) b = absorb iv (u ++ b) := by
  rw [absorb_append iv b hu, absorb_block _ hb]

/-- R192: the full buffer goes over to the absorbed part of the seed. -/
theorem State.HoldsSeed.seedBlk {b : List Byte} (h : s.HoldsSeed seed) (hw : s.wfill.toNat = 128)
    (hlen : b.length = 128) (hread : ∀ k, k < 128 → s.wbuf.read k = b[k]?)
    (hhs : t.hs = compress s.hs b) (ht : t.wfill.toNat = 0) : t.HoldsSeed seed := by
  obtain ⟨old, new, rfl, hold, hnew, hold_hs, hold_read⟩ := h
  rw [hw] at hnew hold_read
  obtain rfl : new = b :=
    eq_of_getElem?_lt hnew hlen fun k hk => (hold_read k hk).symm.trans (hread k hk)
  refine ⟨old ++ new, [], by simp, by rw [List.length_append]; omega, by simp [ht], ?_, by simp [ht]⟩
  rw [hhs, hold_hs, compress_absorb hold hlen]

/-- R193: the block of `E_PAD1` is the rest of the seed, `0x80`, and zeros up to a whole block. -/
theorem State.HoldsSeed.pad1 {w : List Byte} (h : s.HoldsSeed seed) (hlo : 112 ≤ s.wfill.toNat)
    (hhi : s.wfill.toNat ≤ 127) (hlen : w.length = s.wfill.toNat)
    (hread : ∀ k, k < s.wfill.toNat → s.wbuf.read k = w[k]?) :
    112 ≤ seed.length % 128 ∧
      compress s.hs (pad1Block w) =
        absorb iv (seed ++ [0x80] ++ zeros (127 - seed.length % 128)) := by
  obtain ⟨old, new, rfl, hold, hnew, hold_hs, hold_read⟩ := h
  obtain rfl : new = w :=
    eq_of_getElem?_lt hnew hlen fun k hk => (hold_read k hk).symm.trans (hread k hk)
  have hmod : (old ++ new).length % 128 = new.length := by rw [List.length_append]; omega
  refine ⟨by omega, ?_⟩
  rw [hold_hs, compress_absorb hold (pad1Block_length _ (by omega)), hmod, pad1Block]
  simp only [List.append_assoc]

/-- R196: the new Digest Block continues the chain. -/
theorem Mem.read_writeBytes_chainBytes {m : Mem} {c : Chaining} {n : Nat}
    (hm : ∀ a < 64 * n, m.read a = (chainBytes seed n)[a]?) (hc : digestBytes c = blk seed n) :
    ∀ a < 64 * (n + 1),
      (m.writeBytes (64 * n) (digestBytes c)).read a = (chainBytes seed (n + 1))[a]? := by
  intro a ha
  rw [chainBytes_succ]
  by_cases hold : a < 64 * n
  · rw [Mem.read_writeBytes_digest_outside _ _ (.inl hold), hm a hold,
      List.getElem?_append_left (by rwa [chainBytes_length])]
  · obtain ⟨k, rfl⟩ : ∃ k, a = 64 * n + k := ⟨a - 64 * n, by omega⟩
    rw [Mem.read_writeBytes_digest_inside _ _ _ (by omega), hc,
      List.getElem?_append_right (by rw [chainBytes_length]; omega), chainBytes_length,
      Nat.add_sub_cancel_left]

/-- The pair of Digest Blocks at `128 * NABS` continues the part of the accumulator that `MS` has
absorbed (R195). -/
theorem take_chainBytes_append {b : List Byte} {j n : Nat} (hlen : b.length = 128)
    (hn : 128 * (j + 1) ≤ 64 * n)
    (hread : ∀ k, k < 128 → (chainBytes seed n)[128 * j + k]? = b[k]?) :
    (chainBytes seed n).take (128 * j) ++ b = (chainBytes seed n).take (128 * (j + 1)) := by
  have hpair : ((chainBytes seed n).drop (128 * j)).take 128 = b := by
    refine eq_of_getElem?_lt (by simp; omega) hlen fun k hk => ?_
    rw [List.getElem?_take_of_lt hk, List.getElem?_drop, hread k hk]
  rw [Nat.mul_succ, List.take_add, hpair]

/-- R200 in `CHAIN` and `DONE` after a further Digest Block, the first or a later one. -/
theorem State.Computes.newBlock {c : Chaining} (hlen : seed.length = t.seedlen.toNat)
    (hacc_old : ∀ a < 64 * s.nblk.toNat, s.acc.read a = (chainBytes seed s.nblk.toNat)[a]?)
    (hc : digestBytes c = blk seed s.nblk.toNat)
    (hms : t.ms = absorb iv ((chainBytes seed s.nblk.toNat).take (128 * t.nabs.toNat)))
    (hnabs : 128 * t.nabs.toNat ≤ 64 * s.nblk.toNat)
    (hphase : t.phase = .chain ∨ t.phase = .done)
    (hnblk : t.nblk.toNat = s.nblk.toNat + 1)
    (hacc : t.acc = s.acc.writeBytes (64 * s.nblk.toNat) (digestBytes c)) : t.Computes seed where
  length_eq := hlen
  open_seed := fun h => by rcases hphase with hp | hp <;> simp [hp] at h
  half_padded := fun h => by rcases hphase with hp | hp <;> simp [hp] at h
  acc_blocks := fun _ => by
    rw [hnblk, hacc]
    exact Mem.read_writeBytes_chainBytes hacc_old hc
  midstate := fun _ => by
    rw [hms, hnblk, chainBytes_succ, List.take_append_of_le_length (by rwa [chainBytes_length])]

theorem ite_done_chain (p : Prop) [Decidable p] :
    (if p then Phase.done else .chain) = .chain ∨ (if p then Phase.done else .chain) = .done := by
  split
  · exact .inr rfl
  · exact .inl rfl

theorem State.Computes.engineActs (hc : s.Computes seed) (hs : s.Consistent)
    (h : EngineActs s t) : t.Computes seed := by
  cases h with
  | idle _ => exact hc
  | seedBlk hp hw hlen hread =>
    have hpad : s.pad80 = false := by
      rw [← Bool.not_eq_true]
      exact fun hpad => by simp [(hs.pad80_pad hpad).2] at hw
    have hopen := hc.open_seed (hp.imp_right fun h => ⟨h, hpad⟩)
    exact {
      length_eq := hc.length_eq
      open_seed := fun _ => hopen.seedBlk hw hlen hread rfl rfl
      half_padded := fun _ h => by simp [hpad] at h
      acc_blocks := fun h => by rcases hp with hp | hp <;> simp [hp] at h
      midstate := fun h => by rcases hp with hp | hp <;> simp [hp] at h }
  | pad1 hp hlo hhi hlen hread =>
    have hpad : s.pad80 = false := by
      rw [← Bool.not_eq_true]
      intro hpad
      have := (hs.pad80_pad hpad).2
      omega
    have hhalf := (hc.open_seed (.inr ⟨hp, hpad⟩)).pad1 hlo hhi hlen hread
    exact {
      length_eq := hc.length_eq
      open_seed := fun h => by simp [hp] at h
      half_padded := fun _ _ => hhalf
      acc_blocks := fun h => by simp [hp] at h
      midstate := fun h => by simp [hp] at h }
  | seedFinal hp hw hlen hread =>
    have hn := hs.nblk_zero (.inr hp)
    refine State.Computes.newBlock (s := s) hc.length_eq (by simp [hn]) ?_
      (by simp [hn, chainBytes, absorb, absorbBlocks]) (by simp) (ite_done_chain _) (by simp [hn]) (by rw [hn])
    rw [hn, blk, if_pos rfl, hc.sha512_seed hs hp hw hlen hread]
  | absorb hp heven hnabs hlen hread hms =>
    have hacc := hc.acc_blocks (.inl hp)
    have hmid := hc.midstate (.inl hp)
    have hsucc := hs.nabs_succ hp hnabs
    exact {
      length_eq := hc.length_eq
      open_seed := fun h => by simp [hp] at h
      half_padded := fun h => by simp [hp] at h
      acc_blocks := fun _ => hacc
      midstate := fun _ => by
        dsimp only
        rw [hms, hsucc, ← take_chainBytes_append hlen (by omega)
          fun k hk => (hacc _ (by omega)).symm.trans (hread k hk), hmid]
        exact compress_absorb (by simp; omega) hlen }
  | final hp hnabs hread =>
    have hpos := (hs.chain_lt hp).1
    refine State.Computes.newBlock (s := s) hc.length_eq (hc.acc_blocks (.inl hp)) ?_
      (hc.midstate (.inl hp)) (by dsimp only; omega) (ite_done_chain _) (hs.nblk_succ hp) rfl
    rw [blk, if_neg (by omega), hc.sha512_chainBytes hp hnabs hread]

/-! ## Every step -/

/-- The step that tries the transaction at the port performs its instruction. -/
theorem State.triesNext.performs {sched : List Turn} {n : Nat} (h : s.triesNext i)
    (hacts : Acts { s with schedule := sched, turnCount := n } (takeTurn s).1 t) :
    Performs { s with schedule := sched, turnCount := n } i t := by
  obtain ⟨hturn, r, hb, hi⟩ := h
  rw [hturn] at hacts
  cases hacts with
  | performed hb' hi' hperf =>
    cases hb.symm.trans hb'
    cases hi.symm.trans hi'
    exact hperf
  | rejected hb' he =>
    cases hb.symm.trans hb'
    cases hi.symm.trans he
  | presented hb' => cases hb.symm.trans hb'

end

/-- Settles O44. The three clauses are the three cases of what an instruction makes of the seed; the engine
and the other turns leave it. -/
theorem everyStepKeepsComputes : Obligations.EveryStepKeepsComputes := by
  intro s t seed hs hc hstep
  obtain ⟨sched, n, hacts⟩ := acts_of_step hstep
  have hs' : ({ s with schedule := sched, turnCount := n } : State).Consistent := hs.interface
  have hc' : ({ s with schedule := sched, turnCount := n } : State).Computes seed := hc.hostSide
  refine ⟨?_, fun d htries hok => ?_, fun hreset hinit hwrite => ?_⟩
  · rintro (hreset | ⟨htries, hok⟩)
    · rw [hreset] at hacts
      cases hacts
      exact State.computes_nil_of_new rfl rfl rfl rfl
    · obtain ⟨-, -, hnil⟩ | ⟨d, hi, -⟩ | ⟨hno, -⟩ := hc'.performs hs' (htries.performs hacts)
      · exact hnil
      · cases hi
      · exact absurd hok (hno (.inl rfl))
  · obtain ⟨hi, -⟩ | ⟨d', hi, -, hbyte, happ⟩ | ⟨hno, -⟩ :=
      hc'.performs hs' (htries.performs hacts)
    · cases hi
    · cases hi
      exact ⟨_, hbyte, happ⟩
    · exact absurd hok (hno (.inr ⟨d, rfl⟩))
  · generalize hturn : (takeTurn s).1 = turn at hacts
    cases hacts with
    | reset => exact absurd hturn hreset
    | engine h => exact hc'.engineActs hs' h
    | rejected _ _ => exact hc'.raiseErr _
    | presented _ => exact hc'.present
    | performed hb hi h =>
      obtain ⟨rfl, hok, -⟩ | ⟨d, rfl, hok, -⟩ | ⟨-, hsame⟩ := hc'.performs hs' h
      · exact absurd ⟨⟨hturn, _, hb, hi⟩, hok⟩ hinit
      · exact absurd ⟨⟨hturn, _, hb, hi⟩, hok⟩ (hwrite d)
      · exact hsame

end Sys2Proof.Machine
end

section
/-! An engine step and the host's side of the state (spec/20_memory.md R73, spec/10_state.md R40): the step
neither reads nor writes it, and takes nothing back that the output port has promised. -/

namespace Sys2Proof.Machine

/-- The state with the fields that no engine step reads or writes taken from `u`: the output position, the
error record, the port, and the inputs of the run. -/
def State.withHostSide (s u : State) : State :=
  { s with
    outpos := u.outpos, err := u.err, errcode := u.errcode, bus := u.bus, response := u.response
    script := u.script, schedule := u.schedule, turnCount := u.turnCount }

section

variable {s t u : State}

/-! ## Independence -/

/-- Two states that agree on what an engine step reads differ in the host's side alone. -/
theorem SameEngineView.eq_withHostSide (h : SameEngineView s u) : u = s.withHostSide u := by
  obtain ⟨hphase, hpad, hw, hl, hhs, hwbuf, hms, hnblk, hnabs, hacc, hblocks⟩ := h
  rw [State.withHostSide, hphase, hpad, hw, hl, hhs, hwbuf, hms, hnblk, hnabs, hacc, hblocks]

/-- An engine step writes nothing of the host's side. -/
theorem EngineActs.sameHostView (h : EngineActs s t) : SameHostView t s := by
  cases h with
  | idle _ => exact ⟨rfl, rfl, rfl, rfl, rfl, rfl, rfl, rfl, rfl, rfl⟩
  | seedBlk _ _ _ _ => exact ⟨rfl, rfl, rfl, rfl, rfl, rfl, rfl, rfl, rfl, rfl⟩
  | pad1 _ _ _ _ _ => exact ⟨rfl, rfl, rfl, rfl, rfl, rfl, rfl, rfl, rfl, rfl⟩
  | seedFinal _ _ _ _ => exact ⟨rfl, rfl, rfl, rfl, rfl, rfl, rfl, rfl, rfl, rfl⟩
  | absorb _ _ _ _ _ _ => exact ⟨rfl, rfl, rfl, rfl, rfl, rfl, rfl, rfl, rfl, rfl⟩
  | final _ _ _ => exact ⟨rfl, rfl, rfl, rfl, rfl, rfl, rfl, rfl, rfl, rfl⟩

/-- With another host's side the engine does the same: every condition and every byte it reads is the
same. -/
theorem EngineActs.withHostSide (h : EngineActs s t) (u : State) :
    EngineActs (s.withHostSide u) (t.withHostSide u) := by
  cases h with
  | idle h => exact .idle h
  | seedBlk hp hw hlen hread => exact .seedBlk hp hw hlen hread
  | pad1 hp hlo hhi hlen hread => exact .pad1 hp hlo hhi hlen hread
  | seedFinal hp hw hlen hread => exact .seedFinal hp hw hlen hread
  | absorb hp heven hnabs hlen hread hms =>
    exact .absorb (s := s.withHostSide u) hp heven hnabs hlen hread hms
  | final hp hnabs hread => exact .final hp hnabs hread

theorem sameEngineView_withHostSide (t u : State) : SameEngineView t (t.withHostSide u) :=
  ⟨rfl, rfl, rfl, rfl, rfl, rfl, rfl, rfl, rfl, rfl, rfl⟩

/-! ## Monotony -/

/-- The bytes of existing Digest Blocks stay (R40). -/
theorem EngineActs.acc_read (h : EngineActs s t) (hs : s.Consistent) {a : Nat}
    (ha : a < 64 * s.nblk.toNat) : t.acc.read a = s.acc.read a := by
  cases h with
  | idle _ => rfl
  | seedBlk _ _ _ _ => rfl
  | pad1 _ _ _ _ _ => rfl
  | seedFinal hp _ _ _ => simp [hs.nblk_zero (.inr hp)] at ha
  | absorb _ _ _ _ _ _ => rfl
  | final _ _ _ => exact Mem.read_writeBytes_digest_outside _ _ (.inl ha)

theorem EngineActs.nblk_le (h : EngineActs s t) (hs : s.Consistent) :
    s.nblk.toNat ≤ t.nblk.toNat := by
  cases h with
  | idle _ => exact le_rfl
  | seedBlk _ _ _ _ => exact le_rfl
  | pad1 _ _ _ _ _ => exact le_rfl
  | seedFinal hp _ _ _ => rw [hs.nblk_zero (.inr hp)]; exact Nat.zero_le _
  | absorb _ _ _ _ _ _ => exact le_rfl
  | final hp _ _ => exact (Nat.le_succ _).trans_eq (hs.nblk_succ hp).symm

/-- R30: what the engine does with `PHASE`. -/
theorem EngineActs.phase_cases (h : EngineActs s t) :
    t.phase = s.phase ∨
    (s.phase = .pad ∧ s.wfill.toNat ≤ 111 ∧
      t.phase = if s.hashGoal = 1 then .done else .chain) ∨
    (s.phase = .chain ∧ t.phase = .done ∧ s.nblk.toNat + 1 = s.hashGoal) := by
  cases h with
  | idle _ => exact .inl rfl
  | seedBlk _ _ _ _ => exact .inl rfl
  | pad1 _ _ _ _ _ => exact .inl rfl
  | seedFinal hp hw _ _ => exact .inr (.inl ⟨hp, hw, rfl⟩)
  | absorb _ _ _ _ _ _ => exact .inl rfl
  | final hp _ _ =>
    by_cases hgoal : s.nblk.toNat + 1 = s.hashGoal
    · exact .inr (.inr ⟨hp, if_pos hgoal, hgoal⟩)
    · exact .inl ((if_neg hgoal).trans hp.symm)

/-- The engine neither opens nor closes the seed. -/
theorem EngineActs.phase_eq_seed_iff (h : EngineActs s t) : t.phase = .seed ↔ s.phase = .seed := by
  obtain e | ⟨hp, -, e⟩ | ⟨hp, e, -⟩ := h.phase_cases
  · rw [e]
  · rcases ite_done_chain (s.hashGoal = 1) with h | h <;> simp [e, h, hp]
  · simp [e, hp]

theorem EngineActs.phase_code_le (h : EngineActs s t) :
    s.phase.code.toNat ≤ t.phase.code.toNat := by
  obtain e | ⟨hp, -, e⟩ | ⟨hp, e, -⟩ := h.phase_cases
  · rw [e]
  · rcases ite_done_chain (s.hashGoal = 1) with h | h <;> rw [hp, e, h] <;> decide
  · rw [hp, e]
    decide

/-- What `OUT_VALID` promises stays (R288). -/
theorem EngineActs.outValid (h : EngineActs s t) (hs : s.Consistent) (hv : s.outValid = true) :
    t.outValid = true := by
  obtain ⟨hphase, hlt, hexists⟩ := s.outValid_iff.mp hv
  have hle := h.nblk_le hs
  have hcap := (hs.engineActs h).nblk_le_hashGoal
  rw [State.hashGoal_eq] at hcap
  have hview := h.sameHostView
  rw [State.outValid_iff, hview.outpos, hview.blocks]
  refine ⟨?_, hlt, by omega⟩
  obtain e | ⟨hp, -, -⟩ | ⟨-, e, -⟩ := h.phase_cases
  · rwa [e]
  · rcases hphase with h | h <;> simp [h] at hp
  · exact .inr e

end

/-! ## The two obligations -/

/-- Settles O38: the second state is the first with its own host's side, and so is the result. -/
theorem engineIgnoresTheHostSide : Obligations.EngineIgnoresTheHostSide := by
  intro s u t hview hturn
  have hacts := engineActs_of_engineTurn hturn
  have hkeep := hacts.sameHostView
  refine ⟨hkeep, t.withHostSide u, ?_, sameEngineView_withHostSide t u, ?_⟩
  · rw [hview.eq_withHostSide]
    exact engineTurn_of_engineActs (hacts.withHostSide u)
  · exact ⟨hkeep.seedlen.trans hview.seedlen, hkeep.blocks.trans hview.blocks,
      rfl, rfl, rfl, rfl, rfl, rfl, rfl, rfl⟩

/-- Settles O39: the read changes the host's side alone, which the engine does not look at, and the engine
leaves the byte where it was. -/
theorem outputReadCommutesWithEngine : Obligations.OutputReadCommutesWithEngine := by
  intro s hs hv
  obtain ⟨v, hread⟩ := hs.exists_stream_byte hv
  obtain ⟨u, hturn⟩ := hs.engine_progress
  have hacts := engineActs_of_engineTurn hturn
  obtain ⟨-, hblocks, houtpos, herr, hcode, -, -, hscript, hsched, hcount⟩ := hacts.sameHostView
  have hread_u : u.acc.read (streamAddr u.outpos.toNat) = some v := by
    obtain ⟨-, hlt, hexists⟩ := s.outValid_iff.mp hv
    have hle := streamAddr_le s.outpos.toNat
    have hbound := streamAddr_lt s.outpos.toNat
    rw [houtpos, hacts.acc_read hs (by omega), hread]
  have hfirst := execRdOutData_of_outValid hv hread
  have hsecond := execRdOutData_of_outValid (hacts.outValid hs hv) hread_u
  generalize ht : ({ s with outpos := s.outpos + 1 } : State).complete (.okRead (zext32 v)) = t
    at hfirst
  have hafter_read : s.withHostSide t = t := by
    rw [← ht]
    rfl
  have hafter_turn : ({ u with outpos := u.outpos + 1 } : State).complete (.okRead (zext32 v)) =
      u.withHostSide t := by
    simp only [← ht, State.complete, State.withHostSide, houtpos, herr, hcode, hscript, hsched,
      hcount]
  have hcommutes := hacts.withHostSide t
  rw [hafter_read] at hcommutes
  rw [hafter_turn] at hsecond
  refine ⟨t, u, _, zext32 v, hfirst, hturn, hsecond, engineTurn_of_engineActs hcommutes, ?_, ?_⟩
  all_goals
    rw [← ht]
    rfl

end Sys2Proof.Machine
end

section
/-! The output port delivers the stream (spec/42_engine_steps.md R201, R203): one read, and any run of reads
and engine steps. -/

namespace Sys2Proof.Machine

section

variable {s t : State} {seed : List Byte}

/-- R201: a read with `OUT_VALID` set returns the byte of `expand` at `OUTPOS`. -/
theorem State.Computes.rdOutData (hc : s.Computes seed) (hs : s.Consistent)
    (hv : s.outValid = true) :
    ∃ b : Byte, (expand seed s.blocks.toNat)[s.outpos.toNat]? = some b ∧
      execRdOutData s =
        .next ({ s with outpos := s.outpos + 1 }.complete (.okRead (zext32 b))) := by
  obtain ⟨b, hread⟩ := hs.exists_stream_byte hv
  obtain ⟨-, hlt, -⟩ := s.outValid_iff.mp hv
  refine ⟨b, ?_, execRdOutData_of_outValid hv hread⟩
  rw [expand_getElem? seed hlt, ← hc.read_streamAddr hs hv, hread]

/-- `OUTPOS` does not wrap where a byte is left (R33). -/
theorem State.outpos_succ_toNat (hv : s.outValid = true) :
    (s.outpos + 1).toNat = s.outpos.toNat + 1 := by
  obtain ⟨-, hlt, -⟩ := s.outValid_iff.mp hv
  exact toNat_add_one_of_lt (by have := s.blocks.isLt; omega)

/-! ## Runs of reads and engine steps -/

/-- A state that delivers the stream of a closed seed. -/
structure State.Streams (s : State) (seed : List Byte) : Prop where
  consistent : s.Consistent
  computes : s.Computes seed
  closed : s.phase ≠ .seed

/-- The engine's turn goes on delivering the same stream from the same position. -/
theorem State.Streams.engine (h : s.Streams seed) :
    ∃ t, engineTurn s = .next t ∧ t.Streams seed ∧ t.outpos = s.outpos ∧ t.blocks = s.blocks := by
  obtain ⟨t, hturn⟩ := h.consistent.engine_progress
  have hacts := engineActs_of_engineTurn hturn
  have hview := hacts.sameHostView
  exact ⟨t, hturn, ⟨h.consistent.engineActs hacts, h.computes.engineActs h.consistent hacts,
    fun hp => h.closed (hacts.phase_eq_seed_iff.mp hp)⟩, hview.outpos, hview.blocks⟩

/-- A try of `RD OUT_DATA` returns nothing and stays, or returns the byte at `OUTPOS` and goes on to the
next. -/
theorem State.Streams.host (h : s.Streams seed) :
    ∃ t, execRdOutData s = .next t ∧ t.Streams seed ∧ t.blocks = s.blocks ∧
      ((t.response.rdata = none ∧ t.outpos = s.outpos) ∨
        ∃ b : Byte, (expand seed s.blocks.toNat)[s.outpos.toNat]? = some b ∧
          t.response.rdata = some (zext32 b) ∧ t.outpos.toNat = s.outpos.toNat + 1) := by
  obtain ⟨hs, hc, hclosed⟩ := h
  obtain ⟨t, hrun⟩ := hs.exec_progress .rdOutData
  have hperf := performs_of_exec hrun
  refine ⟨t, hrun, ⟨hs.performs hperf, ?_, ?_⟩, ?_⟩
  · obtain ⟨hi, -⟩ | ⟨d, hi, -⟩ | ⟨-, hsame⟩ := hc.performs hs hperf
    · cases hi
    · cases hi
    · exact hsame
  · cases hperf <;> exact hclosed
  · cases hperf with
    | error _ => exact ⟨rfl, .inl ⟨rfl, rfl⟩⟩
    | held _ => exact ⟨rfl, .inl ⟨rfl, rfl⟩⟩
    | register hv => cases hv
    | rdOutData hv hread =>
      obtain ⟨b, hbyte, hnext⟩ := hc.rdOutData hs hv
      rw [Host.Outcome.next.inj (hrun.symm.trans hnext)]
      exact ⟨rfl, .inr ⟨b, hbyte, rfl, State.outpos_succ_toNat hv⟩⟩

/-- The words `vs` are the bytes of a stream from position `p` on, in order and without a gap. -/
def ReturnsFrom (stream : List Byte) (p : Nat) (vs : List Word32) : Prop :=
  vs.map BitVec.toNat = ((stream.drop p).take vs.length).map BitVec.toNat

theorem ReturnsFrom.cons {stream : List Byte} {p : Nat} {b : Byte} {vs : List Word32}
    (hb : stream[p]? = some b) (h : ReturnsFrom stream (p + 1) vs) :
    ReturnsFrom stream p (zext32 b :: vs) := by
  obtain ⟨hp, rfl⟩ := List.getElem?_eq_some_iff.mp hb
  unfold ReturnsFrom at h ⊢
  rw [List.drop_eq_getElem_cons hp, List.length_cons, List.take_succ_cons, List.map_cons,
    List.map_cons, zext32_toNat _ (by decide), h]

/-- R201, R203, from every state that delivers the stream, by induction on the turns. -/
theorem State.Streams.readRun (h : s.Streams seed) {ts : List Turn} (hts : Turn.reset ∉ ts) :
    ∃ (vs : List Word32) (t : State), readRun ts s = some (vs, t) ∧
      ReturnsFrom (expand seed s.blocks.toNat) s.outpos.toNat vs ∧
      t.outpos.toNat = s.outpos.toNat + vs.length ∧ t.outpos.toNat ≤ 64 * s.blocks.toNat := by
  induction ts generalizing s with
  | nil => exact ⟨[], s, rfl, rfl, rfl, h.consistent.outpos_le⟩
  | cons turn ts ih =>
    rw [List.mem_cons, not_or] at hts
    obtain ⟨hturn, hts⟩ := hts
    cases turn with
    | reset => exact absurd rfl hturn
    | engine =>
      obtain ⟨t, hnext, hstreams, hpos, hblocks⟩ := h.engine
      obtain ⟨vs, u, hrun, hrest⟩ := ih hstreams hts
      rw [hpos, hblocks] at hrest
      exact ⟨vs, u, by simp [Machine.readRun, hnext, hrun], hrest⟩
    | host =>
      obtain ⟨t, hnext, hstreams, hblocks, hcase⟩ := h.host
      obtain ⟨vs, u, hrun, hret, hcount, hle⟩ := ih hstreams hts
      rw [hblocks] at hret hle
      refine ⟨t.response.rdata.toList ++ vs, u, by simp [Machine.readRun, hnext, hrun], ?_, ?_, hle⟩
      all_goals obtain ⟨hnone, hpos⟩ | ⟨b, hbyte, hsome, hpos⟩ := hcase
      · rw [hnone, ← hpos]
        exact hret
      · rw [hpos] at hret
        rw [hsome]
        exact hret.cons hbyte
      · rw [hnone, ← hpos]
        exact hcount
      · rw [hcount, hpos, hsome, Option.toList_some, List.singleton_append, List.length_cons]
        omega

end

/-! ## The two obligations -/

/-- Settles O45: the cell at the address of the position holds the byte of the stream. -/
theorem outDataReturnsTheExpandedStream : Obligations.OutDataReturnsTheExpandedStream := by
  intro s seed hs hc hv
  obtain ⟨b, hbyte, hrun⟩ := hc.rdOutData hs hv
  exact ⟨b, zext32 b, s.outpos + 1, hbyte, zext32_toNat b (by decide),
    State.outpos_succ_toNat hv, hrun⟩

/-- Settles O46: the state goes on delivering the stream over every turn of the run. -/
theorem interleavedReadsReturnTheStream : Obligations.InterleavedReadsReturnTheStream :=
  fun _ _ _ hs hc hp hts => State.Streams.readRun ⟨hs, hc, hp⟩ hts

end Sys2Proof.Machine
end

section
/-! How many steps the engine takes to `DONE` (spec/42_engine_steps.md R204): a count of the compressions still
to run that every step lowers by one. -/

namespace Sys2Proof.Machine

/-- The compressions still to run in a state with the seed closed: the seed's and the whole chain in `PAD`,
the blocks and the absorptions that are left in `CHAIN`. -/
def State.stepsLeft (s : State) : Nat :=
  match s.phase with
  | .seed => 0
  | .pad => seedStepsLeft s + chainSteps s.hashGoal
  | .chain => s.hashGoal - s.nblk.toNat + ((s.hashGoal - 1) / 2 - s.nabs.toNat)
  | .done => 0

section

variable {s t : State}

theorem State.stepsLeft_pad (hp : s.phase = .pad) :
    s.stepsLeft = seedStepsLeft s + chainSteps s.hashGoal := by
  simp [State.stepsLeft, hp]

theorem State.stepsLeft_chain (hp : s.phase = .chain) :
    s.stepsLeft = s.hashGoal - s.nblk.toNat + ((s.hashGoal - 1) / 2 - s.nabs.toNat) := by
  simp [State.stepsLeft, hp]

theorem State.stepsLeft_done (hp : s.phase = .done) : s.stepsLeft = 0 := by
  simp [State.stepsLeft, hp]

theorem seedStepsLeft_of_le (h : s.wfill.toNat ≤ 111) : seedStepsLeft s = 1 := if_neg (by omega)

theorem seedStepsLeft_of_ge (h : 112 ≤ s.wfill.toNat) : seedStepsLeft s = 2 := if_pos h

/-- After block `n` has been produced: in `DONE` none is left, and in `CHAIN` the formula goes on. -/
theorem State.stepsLeft_of_newBlock {n g : Nat} (hgoal : t.hashGoal = g)
    (hnblk : t.nblk.toNat = n + 1) (hnabs : t.nabs.toNat = n / 2)
    (hphase : t.phase = if n + 1 = g then .done else .chain) :
    t.stepsLeft = g - (n + 1) + ((g - 1) / 2 - n / 2) := by
  split at hphase
  · rw [State.stepsLeft_done hphase]
    omega
  · rw [State.stepsLeft_chain hphase, hgoal, hnblk, hnabs]

/-- R204: in `DONE` nothing is left, elsewhere something is. -/
theorem State.Consistent.stepsLeft_eq_zero_iff (hs : s.Consistent) (hp : s.phase ≠ .seed) :
    s.stepsLeft = 0 ↔ s.phase = .done := by
  cases hphase : s.phase with
  | seed => exact absurd hphase hp
  | pad =>
    have hseed : 1 ≤ seedStepsLeft s := by
      unfold seedStepsLeft
      split <;> decide
    rw [State.stepsLeft_pad hphase]
    exact iff_of_false (by omega) nofun
  | chain =>
    have hlt := (hs.chain_lt hphase).2
    rw [State.stepsLeft_chain hphase]
    exact iff_of_false (by omega) nofun
  | done => exact iff_of_true (State.stepsLeft_done hphase) rfl

/-- R191 to R196: every step of a busy engine is one compression less. -/
theorem EngineActs.stepsLeft_succ (h : EngineActs s t) (hs : s.Consistent) (hp : s.phase ≠ .seed)
    (hbusy : s.phase ≠ .done) : t.stepsLeft + 1 = s.stepsLeft := by
  have hgoal : t.hashGoal = s.hashGoal := by
    rw [State.hashGoal, h.sameHostView.blocks, State.hashGoal]
  have hpos := hs.hashGoal_pos hp
  have hbusy' : s.phase = .pad ∨ s.phase = .chain := by cases hphase : s.phase <;> simp_all
  cases h with
  | idle hidle =>
    obtain ⟨e, he⟩ := hs.exists_enabled hbusy'
    simp [hidle e] at he
  | seedBlk hpad hw _ _ =>
    have hpad' := hpad.resolve_left hp
    rw [State.stepsLeft_pad hpad', State.stepsLeft_pad (by exact hpad'), hgoal,
      seedStepsLeft_of_ge (s := s) (by omega), seedStepsLeft_of_le (Nat.zero_le _)]
    omega
  | pad1 hpad hlo _ _ _ =>
    rw [State.stepsLeft_pad hpad, State.stepsLeft_pad (by exact hpad), hgoal,
      seedStepsLeft_of_ge hlo, seedStepsLeft_of_le (Nat.zero_le _)]
    omega
  | seedFinal hpad hw _ _ =>
    have hleft := State.stepsLeft_of_newBlock (n := 0) hgoal (by simp) (by simp) (by simp [eq_comm])
    rw [State.stepsLeft_pad hpad, seedStepsLeft_of_le hw, chainSteps, hleft]
    omega
  | absorb hchain heven hnabs _ _ _ =>
    have hlt := (hs.chain_lt hchain).2
    rw [State.stepsLeft_chain hchain, State.stepsLeft_chain (by exact hchain), hgoal,
      hs.nabs_succ hchain hnabs]
    dsimp only
    omega
  | final hchain hnabs _ =>
    have hlt := (hs.chain_lt hchain).2
    have hleft := State.stepsLeft_of_newBlock hgoal (hs.nblk_succ hchain) hnabs rfl
    rw [State.stepsLeft_chain hchain, hleft]
    omega

theorem engineRun_succ_of_next {n : Nat} (h : engineTurn s = .next t) :
    engineRun (n + 1) s = engineRun n t := by
  simp [engineRun, h]

/-- Up to the count, the engine alone goes on without a stop, and `k` turns are `k` compressions. -/
theorem State.Consistent.engineRun {k : Nat} (hs : s.Consistent) (hp : s.phase ≠ .seed)
    (hk : k ≤ s.stepsLeft) :
    ∃ t, engineRun k s = .next t ∧ t.Consistent ∧ t.phase ≠ .seed ∧
      t.stepsLeft + k = s.stepsLeft := by
  induction k generalizing s with
  | zero => exact ⟨s, rfl, hs, hp, rfl⟩
  | succ k ih =>
    have hbusy : s.phase ≠ .done := fun hdone => by
      rw [State.stepsLeft_done hdone] at hk
      omega
    obtain ⟨u, hturn⟩ := hs.engine_progress
    have hacts := engineActs_of_engineTurn hturn
    have hleft := hacts.stepsLeft_succ hs hp hbusy
    obtain ⟨t, hrun, ht, hpt, hcount⟩ := ih (hs.engineActs hacts)
      (fun hseed => hp (hacts.phase_eq_seed_iff.mp hseed)) (by omega)
    exact ⟨t, (engineRun_succ_of_next hturn).trans hrun, ht, hpt, by omega⟩

end

/-- Settles O47: the count in `PAD` is the one of R204, and `DONE` is reached where it is 0. -/
theorem engineReachesDone : Obligations.EngineReachesDone := by
  intro s hs hp
  have hclosed : s.phase ≠ .seed := by simp [hp]
  rw [← State.hashGoal_eq, ← State.stepsLeft_pad hp]
  refine ⟨?_, fun k u hk hrun => ?_⟩
  · obtain ⟨t, hrun, ht, hpt, hcount⟩ := hs.engineRun hclosed le_rfl
    exact ⟨t, hrun, (ht.stepsLeft_eq_zero_iff hpt).mp (by omega)⟩
  · obtain ⟨t, hrun', ht, hpt, hcount⟩ := hs.engineRun hclosed hk.le
    cases hrun'.symm.trans hrun
    rw [Ne, ← ht.stepsLeft_eq_zero_iff hpt]
    omega

end Sys2Proof.Machine
end

section
/-! Every word that decodes is a row of the opcode table with its operand, and every well-formed instruction
is the decoding of its word (spec/30_encoding.md R91, R103). -/

namespace Sys2Proof

/-- Settles O1: closed words, decoded. -/
theorem specWordsDecode : Obligations.SpecWordsDecode := by
  unfold Obligations.SpecWordsDecode
  decide

/-- Settles O2: the word of a transaction has its fields, and the data that the encoder writes are what the
row asks for. -/
theorem decodeInvertsEncode : Obligations.DecodeInvertsEncode := fun _ => decode_encodeReq_word

/-- Data that a row takes are an operand that the row's instruction admits. -/
theorem wellFormed_withData {i : Instr} {d : Word32} (h : i.RowData d) :
    (i.withData d).wellFormed = true := by
  cases i with
  | wrBlocks _ => exact h
  | wrSeedData _ => exact h
  | _ => rfl

/-- The operand of a decoded word is the word's `DATA`. -/
theorem withData_of_decode {t : TWord} {i : Instr} (h : decode t = .ok i) :
    i = i.withData (TWord.data t) :=
  Except.ok.inj (h.symm.trans (decode_of_matchesRow (matchesRow_of_decode h)))

/-- Settles O3: the word matches the row of what it decodes to, and decoding by the row takes the operand
from `DATA`. -/
theorem decodedWordMatchesItsRow : Obligations.DecodedWordMatchesItsRow := by
  intro t i h
  have hrow := matchesRow_of_decode h
  have hdata := withData_of_decode h
  obtain ⟨-, -, hrowData⟩ := (matchesRow_iff t i).mp hrow
  refine ⟨?_, hrow, ?_, ?_⟩
  · rw [hdata]
    exact wellFormed_withData hrowData
  · rintro d rfl
    exact Instr.wrBlocks.inj hdata
  · rintro d rfl
    exact Instr.wrSeedData.inj hdata

end Sys2Proof
end

section
/-! The step, turn by turn (spec/20_memory.md R73, spec/30_encoding.md R106, spec/10_state.md R43). -/

namespace Sys2Proof.Machine

section

variable {s : State} {ts : List Turn}

/-- A listed turn is taken off the schedule, and its agent acts. -/
theorem step_of_schedule {turn : Turn} (h : s.schedule = turn :: ts) :
    step s = turnEffect turn { s with schedule := ts } := by
  rw [step, takeTurn_cons s turn ts h]

/-- Where no turn is listed the free schedule gives it (log entry 1). -/
theorem step_of_free_schedule (h : s.schedule = []) :
    step s = turnEffect (Config.freeTurn s.turnCount) { s with turnCount := s.turnCount + 1 } := by
  rw [step, takeTurn_nil s h]

theorem hostTurn_of_bus {r : BusReq} (h : s.bus = some r) : hostTurn s = perform r s := by
  simp [hostTurn, h]

theorem hostTurn_of_free_port (h : s.bus = none) : hostTurn s = .next (present s) := by
  simp [hostTurn, h]

/-! ## What the host presents -/

theorem present_of_txn {r : BusReq} {rest : List HostAction} (h : s.script = .txn r :: rest) :
    present s = s.offer r rest := by
  simp [present, h]

/-- Bit 3 of a polled word, as a number (R95, R106). -/
theorem pollSawDone_okRead (v : Word32) :
    pollSawDone (.okRead v) = decide (v.toNat / 8 % 2 = 1) := by
  simp [pollSawDone, BitVec.getLsbD, Nat.testBit_eq_decide_div_mod_eq]

theorem pollSawDone_eq_false {r : Response} (h : ∀ v : Word32, r ≠ .okRead v) :
    pollSawDone r = false := by
  cases r with
  | okRead v => exact absurd rfl (h v)
  | _ => rfl

/-- `WAITDONE` is over once a poll has returned bit 3 set. -/
theorem present_of_waitDone_over {rest : List HostAction}
    (h : s.script = .waitDone true :: rest) (hp : pollSawDone s.response = true) :
    present s = { s with script := rest } := by
  simp [present, h, hp]

/-- Until then `WAITDONE` presents `RD STATUS`. -/
theorem present_of_waitDone_poll {polled : Bool} {rest : List HostAction}
    (h : s.script = .waitDone polled :: rest) (hp : (polled && pollSawDone s.response) = false) :
    present s = s.offer ⟨false, 0x04, 0⟩ (.waitDone true :: rest) := by
  simp only [present, h, hp]
  rfl

end

/-! ## The obligations -/

/-- Settles O7: the host's turn performs the transaction at the port, and the other turns are the other
agents'. -/
theorem stepRunsTheDecodedInstruction : Obligations.StepRunsTheDecodedInstruction := by
  intro s r i hb hi
  have hhost (u : State) (hu : u.bus = some r) : turnEffect .host u = exec i u :=
    (hostTurn_of_bus hu).trans (perform_ok r u i hi)
  refine ⟨fun ts h => ?_, fun h => ?_⟩
  · rw [step_of_schedule h]
    exact hhost _ hb
  · rw [step_of_free_schedule h]
    cases Config.freeTurn s.turnCount with
    | host => exact hhost _ hb
    | engine => rfl
    | reset => rfl

/-- Settles O8: with the port free the host's turn is `present`, which looks at the head of the script. -/
theorem hostPresentsItsScriptInOrder : Obligations.HostPresentsItsScriptInOrder := by
  intro s ts rest hsched hbus
  have hstep : step s = .next (present { s with schedule := ts }) :=
    (step_of_schedule hsched).trans (hostTurn_of_free_port (s := { s with schedule := ts }) hbus)
  have hpoll {polled : Bool} (h : s.script = .waitDone polled :: rest)
      (hp : (polled && pollSawDone s.response) = false) :
      step s = .next { s with
        schedule := ts, bus := some ⟨false, 0x04, 0⟩, response := .idle
        script := .waitDone true :: rest } :=
    hstep.trans (congrArg _ (present_of_waitDone_poll (s := { s with schedule := ts }) h hp))
  refine ⟨fun r h => ?_, fun v h hr => ?_, fun h hr => ?_, fun h => hpoll h rfl⟩
  · exact hstep.trans (congrArg _ (present_of_txn (s := { s with schedule := ts }) h))
  · have hbit := pollSawDone_okRead v
    rw [← hr] at hbit
    split
    case isTrue hv =>
      exact hstep.trans (congrArg _ (present_of_waitDone_over (s := { s with schedule := ts }) h
        (hbit.trans (decide_eq_true hv))))
    case isFalse hv => exact hpoll h (by simp [hbit, hv])
  · exact hpoll h (by simp [pollSawDone_eq_false hr])

/-- Settles O10: the reset values are those of `State.assertReset`, in every state. -/
theorem resetTurnGivesTheResetValues : Obligations.ResetTurnGivesTheResetValues := by
  intro s hturn
  refine ⟨(takeTurn s).2.assertReset, ?_, rfl, rfl, rfl, rfl, rfl, rfl, rfl, rfl, rfl, rfl, rfl, rfl,
    rfl, ?_⟩
  · rw [step, hturn]
    rfl
  · have hstatus : (takeTurn s).2.assertReset.statusWord = 0x10 :=
      State.reset.newExpansion_statusWord
    rw [← hstatus]
    rfl

end Sys2Proof.Machine
end

section
/-! A file streamed as the seed (spec/45_host_software.md R229). -/

namespace Sys2Proof.Machine

/-- The instructions of streaming a file: a write per byte read, and `INIT` where the read broke off. -/
def streamInstrs : FileRead → List Instr
  | .contents bytes => (bytes.map zext32).map .wrSeedData
  | .notOpened => []
  | .brokenOff readSoFar => (readSoFar.map zext32).map .wrSeedData ++ [.init]

/-- `streamInstrs` is what the model's host presents. -/
theorem streamFile_eq (f : FileRead) : streamFile f = ((streamInstrs f).map encodeReq).map .txn := by
  cases f <;>
    simp [streamFile, streamInstrs, seedWrites, seedValueWrites, abandonSeed, Pseudo.expansion,
      Function.comp_def]

theorem wellFormed_of_mem_streamInstrs {f : FileRead} {i : Instr} (h : i ∈ streamInstrs f) :
    i.wellFormed = true := by
  have hwrite (bs : List Byte) (hi : i ∈ (bs.map zext32).map Instr.wrSeedData) :
      i.wellFormed = true := by
    obtain ⟨d, hd, rfl⟩ := List.mem_map.mp hi
    obtain ⟨b, -, rfl⟩ := List.mem_map.mp hd
    exact seedDataLegal_zext32 b
  cases f with
  | contents bs => exact hwrite bs h
  | notOpened => cases h
  | brokenOff bs =>
    rcases List.mem_append.mp h with h | h
    · exact hwrite bs h
    · rw [List.mem_singleton.mp h]
      rfl

/-- The transactions of a streamed file decode to its instructions. -/
theorem decode_streamInstrs (f : FileRead) :
    ((streamInstrs f).map encodeReq).map (fun q => decode q.word) =
      (streamInstrs f).map Except.ok := by
  rw [List.map_map]
  exact List.map_congr_left fun i hi => decode_encodeReq_word (wellFormed_of_mem_streamInstrs hi)

theorem fromFile_of_failed {f : FileRead} (h : ∀ bs, f ≠ .contents bs) :
    fromFile f = .error .ioError := by
  cases f with
  | contents bs => exact absurd rfl (h bs)
  | _ => rfl

/-- Settles O58: the transactions are those of `streamInstrs`, and `INIT` in `SEED` begins the empty
seed. -/
theorem failedFileReadAbandonsTheSeed : Obligations.FailedFileReadAbandonsTheSeed := by
  refine ⟨fun bs f hf => ?_, rfl, fun f r => ⟨?_, fun h => ?_⟩, fun s hp => ?_⟩
  · refine ⟨_, bs.map zext32, streamFile_eq f, ?_, ?_⟩
    · rw [List.map_map]
      exact List.map_congr_left fun b _ => zext32_toNat b (by decide)
    · rw [decode_streamInstrs]
      rcases hf with rfl | rfl <;> simp [streamInstrs]
  · rintro bs rfl
    exact ⟨rfl, rfl⟩
  · have hfail := fromFile_of_failed h
    exact ⟨hfail, by rw [buildFromFile, hfail]⟩
  · exact ⟨_, execInit_of_idle (.inl hp), rfl, rfl, State.computes_nil_of_new rfl rfl rfl rfl⟩

end Sys2Proof.Machine
end

section
/-! The output port and unwritten cells (spec/41_host_operations.md R159, spec/93_implementation_defined.md
U1): where each reader stops. -/

namespace Sys2Proof.Machine

section

variable {s : State}

/-! ## Where a read stops -/

theorem loadByte_of_unwritten {sp : Space} {a : Nat} (ha : a < sp.size)
    (h : (s.mem sp).read a = none) : loadByte s sp a = .error (.unwrittenCell sp a) := by
  simp [loadByte, ha, h]

/-- A read of several bytes stops at the first cell that nothing has written. -/
theorem memRead_of_unwritten {sp : Space} {a n k : Nat} (hk : k < n) (ha : a + k < sp.size)
    (hnone : (s.mem sp).read (a + k) = none)
    (hfirst : ∀ j, j < k → ((s.mem sp).read (a + j)).isSome = true) :
    memRead s sp a n = .error (.unwrittenCell sp (a + k)) := by
  induction k generalizing a n with
  | zero =>
    obtain ⟨n, rfl⟩ : ∃ m, n = m + 1 := ⟨n - 1, by omega⟩
    simp only [memRead, Nat.add_zero] at ha hnone ⊢
    rw [loadByte_of_unwritten ha hnone]
  | succ k ih =>
    obtain ⟨n, rfl⟩ : ∃ m, n = m + 1 := ⟨n - 1, by omega⟩
    obtain ⟨v, hv⟩ := Option.isSome_iff_exists.mp (hfirst 0 (Nat.succ_pos k))
    have hload : loadByte s sp a = .ok v := (loadByte_ok_iff s sp a v).mpr ⟨by omega, hv⟩
    have hshift (j : Nat) : a + (j + 1) = a + 1 + j := by omega
    rw [hshift] at ha hnone ⊢
    have hrest := ih (a := a + 1) (n := n) (by omega) ha hnone fun j hj => by
      rw [← hshift]
      exact hfirst (j + 1) (by omega)
    simp only [memRead, hload, hrest]

theorem memRead_wbuf_of_unwritten {n k : Nat} (hk : k < n) (hn : n ≤ 128)
    (hnone : s.wbuf.read k = none) (hfirst : ∀ j, j < k → (s.wbuf.read j).isSome = true) :
    memRead s .wbuf 0 n = .error (.unwrittenCell .wbuf k) := by
  have h := memRead_of_unwritten (s := s) (sp := .wbuf) (a := 0) hk
  simp only [Nat.zero_add] at h
  exact h (hk.trans_le hn) hnone hfirst

theorem memRead_acc_of_unwritten {a n k : Nat} (hk : k < n) (ha : a + n ≤ 65536)
    (hnone : s.acc.read (a + k) = none)
    (hfirst : ∀ j, j < k → (s.acc.read (a + j)).isSome = true) :
    memRead s .acc a n = .error (.unwrittenCell .acc (a + k)) :=
  memRead_of_unwritten hk (show a + k < 65536 by omega) hnone hfirst

/-! ## The readers -/

theorem execRdOutData_of_unwritten (hv : s.outValid = true)
    (hnone : s.acc.read (streamAddr s.outpos.toNat) = none) :
    execRdOutData s = .fault (.unwrittenCell .acc (streamAddr s.outpos.toNat)) := by
  obtain ⟨hphase, hlt, -⟩ := s.outValid_iff.mp hv
  have hopen : s.phase ≠ .seed := by rcases hphase with h | h <;> simp [h]
  have hend : s.outpos.toNat ≠ s.streamLength := hlt.ne
  have hload := loadByte_of_unwritten (s := s) (sp := .acc) (streamAddr_lt _) hnone
  simp [execRdOutData, hopen, hend, hv, hload]

/-- The three steps of the seed read `WBUF` below `WFILL`, and stop where that read does. -/
theorem engineTurn_of_wbuf_error {f : Fault}
    (hp : (s.phase = .seed ∧ s.wfill.toNat = 128) ∨ (s.phase = .pad ∧ s.wfill.toNat ≤ 128))
    (h : memRead s .wbuf 0 s.wfill.toNat = .error f) : engineTurn s = .fault f := by
  by_cases hfull : s.wfill.toNat = 128
  · have hphase : s.phase = .seed ∨ s.phase = .pad := hp.imp And.left And.left
    rw [engineTurn_of_enabledStep (enabledStep_of_full hphase hfull)]
    rw [hfull] at h
    simp [EngineStep.run, engineSeedBlk, h]
  · obtain ⟨hpad, hle⟩ := hp.resolve_left fun h => hfull h.2
    by_cases hroom : s.wfill.toNat ≤ 111
    · rw [engineTurn_of_enabledStep (enabledStep_of_seedFinal hpad hroom)]
      simp [EngineStep.run, engineSeedFinal, h]
    · rw [engineTurn_of_enabledStep (enabledStep_of_pad1 hpad (by omega) (by omega))]
      simp [EngineStep.run, enginePad1, h]

end

/-- Settles O17: each reader stops where its read of the storage does, and from a consistent state every
instruction and every engine's turn goes on. -/
theorem readOfAnUnwrittenCellStops : Obligations.ReadOfAnUnwrittenCellStops := by
  refine ⟨fun s a hphase hlt hexists ha hnone => ?_, fun s k hp hk hnone hfirst => ?_,
    fun s k hp heven hnabs hk hnone hfirst => ?_, fun s k hp hodd hnabs hk hnone hfirst => ?_,
    fun s f hs => ⟨fun i => ?_, ?_⟩⟩
  · subst ha
    exact execRdOutData_of_unwritten ((s.outValid_iff).mpr ⟨hphase, hlt, hexists⟩) hnone
  · have hle : s.wfill.toNat ≤ 128 := hp.elim (fun h => h.2.le) And.right
    exact engineTurn_of_wbuf_error hp (memRead_wbuf_of_unwritten hk hle hnone hfirst)
  · have hread := memRead_acc_of_unwritten hk (by omega) hnone hfirst
    rw [engineTurn_of_enabledStep (enabledStep_of_absorb hp heven hnabs)]
    simp [EngineStep.run, engineAbsorb, hread]
  · have hread : readLastBlock s s.nblk.toNat =
        .error (.unwrittenCell .acc (64 * (s.nblk.toNat - 1) + k)) :=
      (if_pos hodd).trans (memRead_acc_of_unwritten hk (by omega) hnone hfirst)
    rw [engineTurn_of_enabledStep (enabledStep_of_final hp hnabs)]
    simp [EngineStep.run, engineFinal, hread]
  · obtain ⟨t, hnext⟩ := hs.exec_progress i
    rw [hnext]
    exact nofun
  · obtain ⟨t, hnext⟩ := hs.engine_progress
    rw [hnext]
    exact nofun

/-! ## `RD OUT_DATA` -/

/-- R36, R39: in `DONE` every byte of the stream is there. -/
theorem State.Consistent.outValid_of_done {s : State} (hs : s.Consistent) (hp : s.phase = .done)
    (hne : s.outpos.toNat ≠ 64 * s.blocks.toNat) : s.outValid = true := by
  have hgoal := (hs.done_iff.mp hp).1
  have hle := hs.outpos_le
  have hexists := hs.outpos_exists
  rw [State.hashGoal_eq] at hgoal
  rw [State.streamLength_eq] at hle
  rw [State.outValid_iff]
  exact ⟨.inr hp, by omega, by omega⟩

/-- R199: the fallback begins after the last hashed block. -/
theorem State.Consistent.done_of_fallback {s : State} (hs : s.Consistent)
    (h : 65536 ≤ s.outpos.toNat) : s.phase = .done := by
  have hcap := s.hashGoal_eq
  have hle := hs.nblk_le_hashGoal
  have hexists := hs.outpos_exists
  rw [hs.done_iff]
  omega

/-- Settles O16, one equation for each clause; a fallback read comes after the last hashed block, so it is
not held. -/
theorem readOutDataRule : Obligations.ReadOutDataRule := by
  refine ⟨fun _ hrow => decode_of_matchesRow (i := .rdOutData) hrow, fun s =>
    ⟨execRdOutData_of_open, execRdOutData_of_end, fun hp he hv => ?_,
      fun b hphase hlt hexists hread => ?_, fun hs _ hfall hne =>
        hs.outValid_of_done (hs.done_of_fallback hfall) hne⟩⟩
  · rw [← State.outValid_iff, Bool.not_eq_true] at hv
    exact exec_of_holds (.noByte hp he hv)
  · have hv := s.outValid_iff.mpr ⟨hphase, hlt, hexists⟩
    exact ⟨zext32 b, s.outpos + 1, zext32_toNat b (by decide), State.outpos_succ_toNat hv,
      execRdOutData_of_outValid hv hread⟩

end Sys2Proof.Machine
end

section
/-! The words that `STATUS` cannot show (spec/95_test_vectors.md section 4). -/

namespace Sys2Proof.Machine

section

variable (s : State)

/-! ## The other fields of `STATUS` (R95) -/

theorem State.statusWord_getLsbD_three : s.statusWord.getLsbD 3 = s.doneFlag := by
  simp only [State.statusWord, BitVec.getLsbD_append]
  simp

theorem State.statusWord_getLsbD_five : s.statusWord.getLsbD 5 = s.outValid := by
  simp only [State.statusWord, BitVec.getLsbD_append]
  simp

theorem State.statusWord_getLsbD_six : s.statusWord.getLsbD 6 = s.outEnd := by
  simp only [State.statusWord, BitVec.getLsbD_append]
  simp

theorem State.statusWord_getLsbD_seven : s.statusWord.getLsbD 7 = s.err := by
  simp only [State.statusWord, BitVec.getLsbD_append]
  simp

/-- The word by its fields of more than one bit: six flags stand between `PHASE` and `ERRCODE`, and one
above. -/
theorem State.statusWord_fields :
    ∃ flags fallback : Nat, flags < 64 ∧ fallback < 2 ∧
      s.statusWord.toNat =
        s.phase.code.toNat + 4 * flags + 256 * s.errcode.toNat + 4096 * fallback := by
  have bit (b : Bool) : (BitVec.ofBool b).toNat < 2 := (BitVec.ofBool b).isLt
  have := bit s.busy
  have := bit s.doneFlag
  have := bit s.seedRdy
  have := bit s.outValid
  have := bit s.outEnd
  have := bit s.err
  refine ⟨(BitVec.ofBool s.busy).toNat + 2 * (BitVec.ofBool s.doneFlag).toNat +
    4 * (BitVec.ofBool s.seedRdy).toNat + 8 * (BitVec.ofBool s.outValid).toNat +
    16 * (BitVec.ofBool s.outEnd).toNat + 32 * (BitVec.ofBool s.err).toNat,
    (BitVec.ofBool s.fallbackFlag).toNat, by omega, bit _, ?_⟩
  rw [State.statusWord_toNat]
  simp only [ite_eq_mul_toNat_ofBool]
  omega

theorem State.statusWord_phase : s.statusWord.extractLsb' 0 2 = s.phase.code := by
  obtain ⟨flags, fallback, -, -, h⟩ := s.statusWord_fields
  have := s.phase.code.isLt
  apply BitVec.eq_of_toNat_eq
  rw [BitVec.extractLsb'_toNat, h, Nat.shiftRight_zero]
  omega

theorem State.statusWord_errcode : s.statusWord.extractLsb' 8 4 = s.errcode := by
  obtain ⟨flags, fallback, hflags, -, h⟩ := s.statusWord_fields
  have := s.phase.code.isLt
  have := s.errcode.isLt
  apply BitVec.eq_of_toNat_eq
  rw [BitVec.extractLsb'_toNat, h, Nat.shiftRight_eq_div_pow]
  omega

theorem State.statusWord_upper : s.statusWord.extractLsb' 13 19 = 0 := by
  obtain ⟨flags, fallback, hflags, hfallback, h⟩ := s.statusWord_fields
  have := s.phase.code.isLt
  have := s.errcode.isLt
  apply BitVec.eq_of_toNat_eq
  rw [BitVec.extractLsb'_toNat, h, Nat.shiftRight_eq_div_pow, BitVec.ofNat_eq_ofNat,
    BitVec.toNat_zero]
  omega

end

/-- R36, R39: in `CHAIN` there are fewer blocks than the stream has, and nothing past them has been
read. -/
theorem State.Consistent.done_of_outEnd {s : State} (hs : s.Consistent) (h : s.outEnd = true) :
    s.phase = .done := by
  obtain ⟨hphase, hend⟩ := s.outEnd_iff.mp h
  refine hphase.resolve_left fun hchain => ?_
  have hlt := (hs.chain_lt hchain).2
  have hexists := hs.outpos_exists
  rw [State.hashGoal_eq] at hlt
  omega

/-- Settles O20: each bit is a flag of the state, and no state has two flags that exclude each other. -/
theorem impossibleStatusWords : Obligations.ImpossibleStatusWords := by
  intro s hs
  rw [State.statusWord_getLsbD_two, State.statusWord_getLsbD_three, State.statusWord_getLsbD_four,
    State.statusWord_getLsbD_five, State.statusWord_getLsbD_six, State.statusWord_getLsbD_seven,
    State.statusWord_phase, State.statusWord_errcode, State.busy_iff, State.doneFlag_iff,
    State.seedRdy_iff]
  refine ⟨?_, fun ⟨hp, _⟩ => by rw [hp]; rfl, ?_, hs.errcode_zero, s.statusWord_upper,
    hs.done_of_outEnd⟩
  · rintro ⟨h | h, hdone⟩ <;> simp [h] at hdone
  · rw [State.outValid_iff, State.outEnd_iff]
    rintro ⟨⟨-, hlt, -⟩, -, hend⟩
    exact hlt.ne hend

end Sys2Proof.Machine
end

section
/-! The frame of the instructions (spec/10_state.md R29, spec/41_host_operations.md R153 to R165): which of
them writes a field, and that no other does. -/

namespace Sys2Proof.Machine

section

variable {s t : State} {i : Instr}

/-- No instruction writes the midstate or the accumulator (R24, R40). -/
theorem Performs.frame_chain (h : Performs s i t) : t.ms = s.ms ∧ t.acc = s.acc := by
  cases h <;> exact ⟨rfl, rfl⟩

theorem Performs.frame_engine (h : Performs s i t) (hinit : i ≠ .init) :
    t.hs = s.hs ∧ t.nblk = s.nblk ∧ t.nabs = s.nabs ∧ t.pad80 = s.pad80 := by
  cases h with
  | init _ => exact absurd rfl hinit
  | _ => exact ⟨rfl, rfl, rfl, rfl⟩

theorem Performs.frame_wbuf (h : Performs s i t) (hwrite : ∀ d, i ≠ .wrSeedData d) :
    t.wbuf = s.wbuf := by
  cases h with
  | wrSeedData _ _ _ _ => exact absurd rfl (hwrite _)
  | _ => rfl

/-- The one byte of memory that an instruction writes is at `WFILL` (R158). -/
theorem Performs.read_wbuf_other (h : Performs s i t) {a : Nat} (ha : a ≠ s.wfill.toNat) :
    t.wbuf.read a = s.wbuf.read a := by
  cases h with
  | wrSeedData _ _ _ _ => exact Mem.read_write_other _ _ ha
  | _ => rfl

theorem Performs.frame_seed_counters (h : Performs s i t) (hwrite : ∀ d, i ≠ .wrSeedData d)
    (hinit : i ≠ .init) : t.wfill = s.wfill ∧ t.seedlen = s.seedlen := by
  cases h with
  | wrSeedData _ _ _ _ => exact absurd rfl (hwrite _)
  | init _ => exact absurd rfl hinit
  | _ => exact ⟨rfl, rfl⟩

theorem Performs.frame_blocks (h : Performs s i t) (hwrite : ∀ d, i ≠ .wrBlocks d)
    (hinit : i ≠ .init) : t.blocks = s.blocks := by
  cases h with
  | wrBlocks _ _ => exact absurd rfl (hwrite _)
  | init _ => exact absurd rfl hinit
  | _ => rfl

theorem Performs.frame_outpos (h : Performs s i t) (hread : i ≠ .rdOutData) (hrewind : i ≠ .rewind)
    (hinit : i ≠ .init) : t.outpos = s.outpos := by
  cases h with
  | rdOutData _ _ => exact absurd rfl hread
  | rewind _ => exact absurd rfl hrewind
  | init _ => exact absurd rfl hinit
  | _ => rfl

theorem Performs.frame_phase (h : Performs s i t) (hstart : i ≠ .start) (hinit : i ≠ .init) :
    t.phase = s.phase := by
  cases h with
  | start _ _ => exact absurd rfl hstart
  | init _ => exact absurd rfl hinit
  | _ => rfl

/-- The error record: cleared by `INIT`, written by an error, and left by everything else. -/
theorem Performs.record_cases (h : Performs s i t) :
    (i = .init ∧ t.response = .ok ∧ t.err = false) ∨ (∃ c, t = s.raiseErr c) ∨
    (t.err = s.err ∧ t.errcode = s.errcode) := by
  cases h with
  | init _ => exact .inl ⟨rfl, rfl, rfl⟩
  | error _ => exact .inr (.inl ⟨_, rfl⟩)
  | _ => exact .inr (.inr ⟨rfl, rfl⟩)

theorem Performs.frame_record (h : Performs s i t) (hinit : i ≠ .init)
    (hok : ∀ c, t.response ≠ .err c) : t.err = s.err ∧ t.errcode = s.errcode := by
  obtain ⟨hi, -⟩ | ⟨c, rfl⟩ | hsame := h.record_cases
  · exact absurd hi hinit
  · exact absurd rfl (hok c)
  · exact hsame

theorem Performs.frame_inputs (h : Performs s i t) :
    t.script = s.script ∧ t.schedule = s.schedule ∧ t.turnCount = s.turnCount := by
  cases h <;> exact ⟨rfl, rfl, rfl⟩

/-- A transaction stays at the port, or is acknowledged (R45). -/
theorem Performs.port_cases (h : Performs s i t) :
    t.bus = s.bus ∨ (t.bus = none ∧ t.response.ack = true) := by
  cases h with
  | held _ => exact .inl rfl
  | _ => exact .inr ⟨rfl, rfl⟩

/-- R76: an instruction that leaves the seed closed changes neither the sequencer nor the seed nor the
block count. -/
theorem Performs.frame_closed (h : Performs s i t) (hs : s.phase ≠ .seed) (ht : t.phase ≠ .seed) :
    t.phase = s.phase ∧ t.blocks = s.blocks ∧ t.seedlen = s.seedlen ∧ t.wbuf = s.wbuf ∧
      t.nblk = s.nblk := by
  cases h with
  | init _ => exact absurd rfl ht
  | start hp _ => exact absurd hp hs
  | wrBlocks _ hp => exact absurd hp hs
  | wrSeedData _ hp _ _ => exact absurd hp hs
  | _ => exact ⟨rfl, rfl, rfl, rfl, rfl⟩

end

/-- Settles O28, one lemma for each group of fields. -/
theorem hostOperationsFrame : Obligations.HostOperationsFrame := by
  intro i s t hrun
  have h := performs_of_exec hrun
  obtain ⟨hms, hacc⟩ := h.frame_chain
  exact ⟨hms, fun a => by rw [hacc], h.frame_engine, fun hw a => by rw [h.frame_wbuf hw],
    fun d _ a ha => h.read_wbuf_other ha, h.frame_seed_counters, h.frame_blocks, h.frame_outpos,
    h.frame_phase, h.frame_record, h.frame_inputs⟩

end Sys2Proof.Machine
end

section
/-! Holds (spec/41_host_operations.md R152): exactly when a transaction is held, and how a hold ends. -/

namespace Sys2Proof.Machine

section

variable {s t : State} {i : Instr}

/-- In a consistent state the conditions of the two holds are those of R152. -/
theorem State.Consistent.holds_iff (hs : s.Consistent) (hwf : i.wellFormed = true) :
    Holds s i ↔
      ((∃ d, i = .wrSeedData d) ∧ s.phase = .seed ∧ s.wfill.toNat = 128 ∧
        s.seedlen.toNat ≠ 2 ^ 64 - 1) ∨
      (i = .rdOutData ∧ (s.phase = .pad ∨ s.phase = .chain) ∧
        s.outpos.toNat < 64 * s.blocks.toNat ∧ s.outValid = false) := by
  constructor
  · intro h
    cases h with
    | bufferFull hd hp hl hw => exact .inl ⟨⟨_, rfl⟩, hp, hs.wfill_le.antisymm hw, hl⟩
    | noByte hp he hv =>
      have hdone : s.phase ≠ .done := fun hdone => by simp [hs.outValid_of_done hdone he] at hv
      have hphase : s.phase = .pad ∨ s.phase = .chain := by cases hq : s.phase <;> simp_all
      exact .inr ⟨rfl, hphase, hs.outpos_le.lt_of_ne he, hv⟩
  · rintro (⟨⟨d, rfl⟩, hp, hw, hl⟩ | ⟨rfl, hp, hlt, hv⟩)
    · exact .bufferFull ((wellFormed_wrSeedData_iff d).mp hwf) hp hl hw.ge
    · exact .noByte (by rcases hp with h | h <;> simp [h]) hlt.ne hv

/-- A hold enables and disables no step. -/
theorem enabled_hold (s : State) (e : EngineStep) : e.enabled s.hold = e.enabled s := by
  cases e <;> rfl

/-- R152: where a transaction is held the engine is busy, or the buffer is full. -/
theorem State.Consistent.exists_enabled_of_holds (hs : s.Consistent)
    (hwf : i.wellFormed = true) (h : Holds s i) : ∃ e : EngineStep, e.enabled s = true := by
  obtain ⟨-, hp, hw, -⟩ | ⟨-, hp, -⟩ := (hs.holds_iff hwf).mp h
  · exact ⟨.seedBlk, seedBlk_enabled_iff.mpr ⟨.inl hp, hw⟩⟩
  · exact hs.exists_enabled hp

/-- The engine brings about no cause of an error for a held transaction: it neither opens nor closes the
seed, and leaves the counters that the error checks compare. -/
theorem not_raises_of_holds {c : ErrCode} (h : Holds s i) (hacts : EngineActs s t) :
    ¬ Raises t i c := by
  have hview := hacts.sameHostView
  have hphase := hacts.phase_eq_seed_iff
  intro hr
  cases h with
  | bufferFull hd hp hl _ =>
    cases hr with
    | seedReserved hd' => omega
    | seedClosed _ hp' => exact hp' (hphase.mpr hp)
    | seedOverflow _ _ hl' => exact hl (by rwa [hview.seedlen] at hl')
  | noByte hp he _ =>
    cases hr with
    | outOpen hp' => exact hp (hphase.mp hp')
    | outEnd _ he' => exact he (by rwa [hview.outpos, hview.blocks] at he')

end

/-- Settles O25, with the conditions of the two holds as a consistent state has them. -/
theorem holdsExactly : Obligations.HoldsExactly := fun _ _ _ hs hwf hrun =>
  ⟨(response_eq_held_iff hrun).trans (hs.holds_iff hwf), fun hr => (holds_of_response hrun hr).2⟩

/-- Settles O26: a hold changes nothing that enables a step. -/
theorem heldMeansEngineHasAStep : Obligations.HeldMeansEngineHasAStep := by
  intro i s t hs hwf hrun hr
  obtain ⟨hholds, rfl⟩ := holds_of_response hrun hr
  obtain ⟨e, he⟩ := hs.exists_enabled_of_holds hwf hholds
  exact ⟨e, enabledStep_eq_some_iff.mpr ((enabled_hold s e).trans he)⟩

/-- Settles O27: the answer of the second try is not an error, and an instruction has no other answers than
a hold and `OK`. -/
theorem heldTransactionNeverFails : Obligations.HeldTransactionNeverFails := by
  intro i s t u w _ _ hrun hr hturn hretry
  obtain ⟨hholds, rfl⟩ := holds_of_response hrun hr
  have hholds' : Holds s.hold i := by
    cases hholds with
    | bufferFull hd hp hl hw => exact .bufferFull hd hp hl hw
    | noByte hp he hv => exact .noByte hp he hv
  have hnot (c : ErrCode) := not_raises_of_holds (c := c) hholds' (engineActs_of_engineTurn hturn)
  obtain ⟨c, rfl⟩ | rfl | ⟨v, r, rfl, hok⟩ := exec_next_cases i u w hretry
  · exact absurd (raises_of_response hretry rfl) (hnot c)
  · exact .inl rfl
  · exact .inr hok

end Sys2Proof.Machine
end

section
/-! What every step keeps (spec/10_state.md R30, R35, R45, spec/20_memory.md R76): the outstanding
transaction, the error record, the sequencer and the closed seed. -/

namespace Sys2Proof.Machine

section

variable {s t : State}

/-- The port is free only after a reset or a response (R45). -/
theorem Acts.port_cases {turn : Turn} {r : BusReq} (h : Acts s turn t) (hb : s.bus = some r) :
    t.script = s.script ∧
      (t.bus = some r ∨
        (t.bus = none ∧ (turn = .reset ∨ (turn = .host ∧ t.response.ack = true)))) := by
  cases h with
  | reset => exact ⟨rfl, .inr ⟨rfl, .inl rfl⟩⟩
  | engine h => exact ⟨h.sameHostView.script, .inl (h.sameHostView.bus.trans hb)⟩
  | performed _ _ h =>
    obtain hsame | ⟨hnone, hack⟩ := h.port_cases
    · exact ⟨h.frame_inputs.1, .inl (hsame.trans hb)⟩
    · exact ⟨h.frame_inputs.1, .inr ⟨hnone, .inr ⟨rfl, hack⟩⟩⟩
  | rejected _ _ => exact ⟨rfl, .inr ⟨rfl, .inr ⟨rfl, rfl⟩⟩⟩
  | presented hfree => cases hb.symm.trans hfree

/-- The number that `ERRCODE` records (R251). -/
theorem ErrCode.code_toNat (c : ErrCode) : c.code.toNat = c.number := by
  cases c <;> rfl

/-- All that a step can do to the error record: a reset and `INIT` clear it, an error of the transaction at
the port is recorded, and everything else leaves it (R35, R264). -/
theorem Acts.record_cases {turn : Turn} (h : Acts s turn t) :
    (t.err = false ∧ (turn = .reset ∨ (turn = .host ∧ t.response = .ok ∧
      ∃ r, s.bus = some r ∧ decode r.word = .ok .init))) ∨
    (turn = .host ∧ s.bus.isSome = true ∧ ∃ c, t = s.raiseErr c) ∨
    (t.err = s.err ∧ t.errcode = s.errcode) := by
  cases h with
  | reset => exact .inl ⟨rfl, .inl rfl⟩
  | engine h => exact .inr (.inr ⟨h.sameHostView.err, h.sameHostView.errcode⟩)
  | performed hb hi h =>
    obtain ⟨rfl, hok, herr⟩ | hraise | hsame := h.record_cases
    · exact .inl ⟨herr, .inr ⟨rfl, hok, _, hb, hi⟩⟩
    · exact .inr (.inl ⟨rfl, by rw [hb]; rfl, hraise⟩)
    · exact .inr (.inr hsame)
  | rejected hb _ => exact .inr (.inl ⟨rfl, by rw [hb]; rfl, _, rfl⟩)
  | presented _ =>
    obtain ⟨b, r, rest, e⟩ := present_eq s
    rw [e]
    exact .inr (.inr ⟨rfl, rfl⟩)

/-- R30: all that a step can do to `PHASE`. -/
theorem Acts.phase_cases {turn : Turn} (h : Acts s turn t) :
    t.phase = s.phase ∨
    (s.phase = .seed ∧ t.phase = .pad ∧ turn = .host ∧
      ∃ r, s.bus = some r ∧ decode r.word = .ok .start) ∨
    (s.phase = .pad ∧ turn = .engine ∧ s.wfill.toNat ≤ 111 ∧
      t.phase = (if s.hashGoal = 1 then .done else .chain)) ∨
    (s.phase = .chain ∧ t.phase = .done ∧ turn = .engine ∧ s.nblk.toNat + 1 = s.hashGoal) ∨
    (t.phase = .seed ∧ turn = .reset) ∨
    (s.phase = .done ∧ t.phase = .seed ∧ turn = .host ∧
      ∃ r, s.bus = some r ∧ decode r.word = .ok .init) := by
  cases h with
  | reset => exact .inr (.inr (.inr (.inr (.inl ⟨rfl, rfl⟩))))
  | engine h =>
    obtain e | ⟨hp, hw, e⟩ | ⟨hp, e, hgoal⟩ := h.phase_cases
    · exact .inl e
    · exact .inr (.inr (.inl ⟨hp, rfl, hw, e⟩))
    · exact .inr (.inr (.inr (.inl ⟨hp, e, rfl, hgoal⟩)))
  | performed hb hi h =>
    cases h with
    | init hp =>
      obtain hseed | hdone := hp
      · exact .inl hseed.symm
      · exact .inr (.inr (.inr (.inr (.inr ⟨hdone, rfl, rfl, _, hb, hi⟩))))
    | start hp _ => exact .inr (.inl ⟨hp, rfl, rfl, _, hb, hi⟩)
    | _ => exact .inl rfl
  | rejected _ _ => exact .inl rfl
  | presented _ =>
    obtain ⟨b, r, rest, e⟩ := present_eq s
    rw [e]
    exact .inl rfl

theorem EngineActs.wbuf_eq (h : EngineActs s t) : t.wbuf = s.wbuf := by
  cases h <;> rfl

/-- R76: with the seed closed before and after, no step changes the seed or the block count. -/
theorem Acts.frame_closed {turn : Turn} (h : Acts s turn t) (hs : s.phase ≠ .seed)
    (ht : t.phase ≠ .seed) :
    t.blocks = s.blocks ∧ t.seedlen = s.seedlen ∧ t.wbuf = s.wbuf := by
  cases h with
  | reset => exact absurd rfl ht
  | engine h => exact ⟨h.sameHostView.blocks, h.sameHostView.seedlen, h.wbuf_eq⟩
  | performed _ _ h =>
    obtain ⟨-, hblocks, hseedlen, hwbuf, -⟩ := h.frame_closed hs ht
    exact ⟨hblocks, hseedlen, hwbuf⟩
  | rejected _ _ => exact ⟨rfl, rfl, rfl⟩
  | presented _ =>
    obtain ⟨b, r, rest, e⟩ := present_eq s
    rw [e]
    exact ⟨rfl, rfl, rfl⟩

/-- `OUT_VALID` looks at the sequencer, the position and the two block counts alone (R36). -/
theorem State.outValid_congr (hphase : t.phase = s.phase) (hpos : t.outpos = s.outpos)
    (hblocks : t.blocks = s.blocks) (hnblk : t.nblk = s.nblk) : t.outValid = s.outValid := by
  rw [Bool.eq_iff_iff, State.outValid_iff, State.outValid_iff, hphase, hpos, hblocks, hnblk]

/-- What R40 and R288 promise of a step that does not open the seed. -/
def State.Extends (s t : State) : Prop :=
  (∀ a, a < 64 * s.nblk.toNat → t.acc.read a = s.acc.read a) ∧
    s.nblk.toNat ≤ t.nblk.toNat ∧ s.phase.code.toNat ≤ t.phase.code.toNat ∧
    (s.outValid = true → t.outpos = s.outpos → t.outValid = true)

/-- A state that differs in the port and the record, and in the output position, extends the other. -/
theorem State.Extends.of_same (hphase : t.phase = s.phase) (hblocks : t.blocks = s.blocks)
    (hnblk : t.nblk = s.nblk) (hacc : t.acc = s.acc) : s.Extends t :=
  ⟨fun _ _ => by rw [hacc], by rw [hnblk], by rw [hphase],
    fun hv hpos => (State.outValid_congr hphase hpos hblocks hnblk).trans hv⟩

theorem EngineActs.extends (h : EngineActs s t) (hs : s.Consistent) : s.Extends t :=
  ⟨fun _ ha => h.acc_read hs ha, h.nblk_le hs, h.phase_code_le, fun hv _ => h.outValid hs hv⟩

/-- An instruction that does not open the seed begins the expansion, from no block and no position, or
leaves it. -/
theorem Performs.extends {i : Instr} (h : Performs s i t) (hs : s.Consistent)
    (ht : t.phase ≠ .seed) : s.Extends t := by
  by_cases hp : s.phase = .seed
  · have hn := hs.nblk_eq_zero_of_seed hp
    have hv : ¬ s.outValid = true := by
      rw [State.outValid_iff]
      simp [hp]
    exact ⟨fun a ha => by simp [hn] at ha, by simp [hn], by simp [hp, Phase.code],
      fun h => absurd h hv⟩
  · obtain ⟨hphase, hblocks, -, -, hnblk⟩ := h.frame_closed hp ht
    exact .of_same hphase hblocks hnblk h.frame_chain.2

theorem Acts.extends {turn : Turn} (h : Acts s turn t) (hs : s.Consistent)
    (ht : t.phase ≠ .seed) : s.Extends t := by
  cases h with
  | reset => exact absurd rfl ht
  | engine h => exact h.extends hs
  | performed _ _ h => exact h.extends hs ht
  | rejected _ _ => exact .of_same rfl rfl rfl rfl
  | presented _ =>
    obtain ⟨b, r, rest, e⟩ := present_eq s
    rw [e]
    exact .of_same rfl rfl rfl rfl

end

/-! ## The obligations -/

/-- Settles O9: one step frees the port by a reset or by a response. -/
theorem outstandingTransactionIsStable : Obligations.OutstandingTransactionIsStable := by
  intro s t r hb hstep
  obtain ⟨sched, n, hacts⟩ := acts_of_step hstep
  obtain ⟨hscript, hsame | ⟨hnone, hcause⟩⟩ := hacts.port_cases hb
  · exact ⟨.inl hsame, hscript, fun hnone => by cases hsame.symm.trans hnone⟩
  · exact ⟨.inr hnone, hscript, fun _ => hcause⟩

/-- Settles O24: of the three things a step can do to the record, raising an error keeps a code that is
there and records its own where there is none. -/
theorem errorRecordIsSticky : Obligations.ErrorRecordIsSticky := by
  intro s t hstep
  obtain ⟨sched, n, hacts⟩ := acts_of_step hstep
  obtain ⟨hclear, hcause⟩ | ⟨hturn, hb, c, rfl⟩ | ⟨herr, hcode⟩ := hacts.record_cases
  · exact ⟨fun _ => .inr hcause, fun _ hset => by cases hclear.symm.trans hset⟩
  · refine ⟨fun hset => .inl ⟨rfl, if_pos hset⟩, fun hclear _ => ⟨hturn, hb, c, rfl, ?_⟩⟩
    rw [State.raiseErr_errcode, hclear]
    exact c.code_toNat
  · exact ⟨fun hset => .inl ⟨herr.trans hset, hcode⟩,
      fun hclear hset => by cases (herr.trans hclear).symm.trans hset⟩

/-- Settles O29: the cases of `Acts.phase_cases` in which `PHASE` changes. -/
theorem sequencerTransitions : Obligations.SequencerTransitions := by
  intro s t hstep hne
  obtain ⟨sched, n, hacts⟩ := acts_of_step hstep
  exact hacts.phase_cases.resolve_left hne

/-- Settles O30: the instructions that write the seed or the block count need an open seed. -/
theorem seedIsImmutableAfterStart : Obligations.SeedIsImmutableAfterStart := by
  intro s t hstep hs ht
  obtain ⟨sched, n, hacts⟩ := acts_of_step hstep
  obtain ⟨hblocks, hseedlen, hwbuf⟩ := hacts.frame_closed hs ht
  exact ⟨hblocks, hseedlen, fun a => by rw [hwbuf]⟩

/-- Settles O31: what is not in `SEED` after a step has been extended, or begun with no block. -/
theorem expansionIsMonotone : Obligations.ExpansionIsMonotone := by
  intro s t hs hstep ht
  obtain ⟨sched, n, hacts⟩ := acts_of_step hstep
  have hs' : ({ s with schedule := sched, turnCount := n } : State).Consistent := hs.interface
  exact hacts.extends hs' ht

end Sys2Proof.Machine
end

section
/-! The worked values of SHA-512 (spec/40_sha512_primitive.md R120 to R126, R129, R133, R135). -/

namespace Sys2Proof.Machine

/-- Settles O48: closed values, evaluated part by part. -/
theorem workedHashValues : Obligations.WorkedHashValues := by
  refine ⟨?_, ?_, ?_, ?_, ?_, ?_, ?_, ?_, ?_, ?_, ?_⟩
  all_goals decide +kernel

end Sys2Proof.Machine
end
